-- ==== Sys2Proof/Word.lean ====
section
/-! DEFINITION. The word types of the block (spec/00_scope.md R8, R11). -/

namespace Sys2Proof

/-- A machine word: registers, addresses, instruction words (R8, R11). -/
abbrev Word := BitVec 32

/-- The smallest addressable unit of memory (R65). -/
abbrev Byte := BitVec 8

/-- A register number 0..15; 15 is the program counter (R33, R104). -/
abbrev Reg := Fin 16

/-- Register 15, the program counter (R8). -/
abbrev Reg.pc : Reg := 15

/-- Register 14, the link register BL writes (R35). -/
abbrev Reg.lr : Reg := 14

end Sys2Proof
end

