-- ==== Sys2Proof/Config.lean ====
section
/-! DEFINITION. The parameters the spec leaves to the model (spec/00_scope.md R9), the processor
modes (spec/60_exceptions.md R440), and the free values: constants with no body, about which
nothing can be proved. -/

namespace Sys2Proof

/-- Parameter UNPRED (R9, R14, D15): what an UNPREDICTABLE operand choice does. -/
inductive UnpredPolicy
  /-- The handler stops with the fault `Unpredictable(reason)` before any write. -/
  | fault
  /-- The handler's pseudocode runs as written. -/
  | compute
deriving DecidableEq, Repr

/-- Parameter misalign (R9, R68, D7): what a misaligned data access does. -/
inductive MisalignPolicy
  /-- The handler stops with the fault `MisalignedAccess(addr, n)` before any write. -/
  | fault
  /-- The access is made at the aligned-down address, and the data rotated as the handler's rule says. -/
  | arm7tdmi
deriving DecidableEq, Repr

/-- The two values of the parameters regShiftPcExtra and pcStoreExtra (R9, D5). -/
inductive PcExtra
  | zero
  | four
deriving DecidableEq, Repr

/-- The number of bytes a `PcExtra` stands for. -/
def PcExtra.bytes : PcExtra → Word
  | .zero => 0
  | .four => 4

/-- The parameters undefEntry, swiEntry and interruptEntry (R9, R407, R433, R436): which entry function is there? -/
inductive EntryPolicy
  /-- No entry function: the machine halts with the trap outcome (R409). -/
  | absent
  /-- The reference entry of R433 and R436. -/
  | reference
  /-- Another entry function, of which nothing is known but that it is the CPU context's (log 18). -/
  | given
deriving DecidableEq, Repr

/-- The parameter ctx (R9, R40): which CPU context is there? -/
inductive ContextPolicy
  /-- The context of R440: its modes, banks and SPSRs, with the PSR bits of `userPsrBits` and `privPsrBits`. -/
  | reference
  /-- Another context (log 20): which registers and which SPSR a mode code has, and which PSR bits it may change, is not known. -/
  | given
deriving DecidableEq, Repr

/-- The parameter mem (R9, R60, R65): which memory collaborator is there? -/
inductive MemPolicy
  /-- The default memory of R65, a flat array of bytes. -/
  | flat
  /-- Another memory (log 21), whose answers may depend on every access made before, and are not known. -/
  | given
deriving DecidableEq, Repr

/-- The parameters of the model (R9). The host's `exec` and `step` take a state only, so a state carries
them; no step changes them. -/
structure Params where
  /-- UNPRED (D15). -/
  unpred : UnpredPolicy
  /-- misalign (D7). -/
  misalign : MisalignPolicy
  /-- regShiftPcExtra (D5). -/
  regShiftPcExtra : PcExtra
  /-- pcStoreExtra (D5). -/
  pcStoreExtra : PcExtra
  /-- resetPC (D9); reset writes it through a PC write, which clears bits 1:0 (R460). -/
  resetPC : Word
  /-- undefEntry (D10). -/
  undefEntry : EntryPolicy
  /-- swiEntry (D11). -/
  swiEntry : EntryPolicy
  /-- interruptEntry (D22). -/
  interruptEntry : EntryPolicy
  /-- ctx (D17, D18, D19). -/
  ctx : ContextPolicy
  /-- mem (D8). -/
  mem : MemPolicy
  /-- The CPSR bits that `ctx.writePSR` of the reference context lets User mode change, beside the four flags and never bits 7:0
  (R40, R367, D17: "the CPU context decides which bits the current mode may change"). -/
  userPsrBits : Word
  /-- The CPSR bits that `ctx.writePSR` of the reference context lets a privileged mode change, beside the four flags (R40, R367, D17). -/
  privPsrBits : Word
deriving DecidableEq, Repr

namespace Machine

/-- The processor modes (R440). -/
inductive Mode
  | usr
  | fiq
  | irq
  | svc
  | abt
  | und
  | sys
deriving DecidableEq, Repr, Inhabited

/-- The modes an exception enters; each has an SPSR and banked registers of its own (R440). -/
inductive ExcMode
  | fiq
  | irq
  | svc
  | abt
  | und
deriving DecidableEq, Repr

end Machine

/-- Free value (log 5): the listed mode whose registers, SPSR and privilege a mode code that R440 does not
list acts with. -/
opaque Config.unlistedMode : BitVec 5 → Machine.Mode

/-- Free value (log 4): `mulFlagDraw.C` of R281, one fresh bit for each draw number. -/
opaque Config.mulFlagC : Nat → Bool

/-- Free value (log 4): `mulFlagDraw.V` of R281, one fresh bit for each draw number. -/
opaque Config.mulFlagV : Nat → Bool

/-- Free value (log 4): what `ctx.readPSR(SPSR)` returns in a mode with no SPSR (R366), a fresh word for each
draw number. -/
opaque Config.absentSpsr : Nat → Word

end Sys2Proof
end

