-- ==== Sys2Proof/Syntax.lean ====
section
/-! DEFINITION. The instructions of the block as terms: one constructor for each of the 67 handler ids of
spec/41_dispatch.md R142, its operands as the fields of spec/30_encoding.md. Also the two enumerations of the
dispatch table's cells (R140, R142, R170). -/

namespace Sys2Proof

/-- The condition field (R120); `nv` is the reserved value 0xF, which never passes (R109). -/
inductive Cond
  | eq | ne | cs | cc | mi | pl | vs | vc | hi | ls | ge | lt | gt | le | al | nv
deriving DecidableEq, Repr

/-- The four shift types, `w[6:5]` (R94). -/
inductive ShiftType
  | lsl | lsr | asr | ror
deriving DecidableEq, Repr

/-- The second operand of a data-processing instruction (R93-R95). -/
inductive ShifterOperand
  /-- An 8-bit constant rotated right by twice `rot` (R93). -/
  | imm (rot : BitVec 4) (imm8 : BitVec 8)
  /-- Register `m` shifted by the constant `amt` (R94). -/
  | shiftImm (t : ShiftType) (amt : BitVec 5) (m : Reg)
  /-- Register `m` shifted by the low byte of register `s` (R95). -/
  | shiftReg (t : ShiftType) (s m : Reg)
deriving DecidableEq, Repr

/-- The operand of MSR (R99). -/
inductive PsrOperand
  | reg (m : Reg)
  | imm (rot : BitVec 4) (imm8 : BitVec 8)
deriving DecidableEq, Repr

/-- The offset of addressing mode 2 (R100). -/
inductive Offset2
  | imm (v : BitVec 12)
  | reg (t : ShiftType) (amt : BitVec 5) (m : Reg)
deriving DecidableEq, Repr

/-- The index forms of mode 2: OF, PR and PT of R184. -/
inductive Index2
  /-- P = 1, W = 0. -/
  | offset
  /-- P = 1, W = 1. -/
  | pre
  /-- P = 0. -/
  | post
deriving DecidableEq, Repr

/-- Addressing mode 2 (R100, R184); `up` is U, and `n` is the base Rn. -/
structure Mode2 where
  ix : Index2
  up : Bool
  n : Reg
  off : Offset2
deriving DecidableEq, Repr

/-- The addresses of the T forms, which are post-indexed with P = 0 and W = 1 (R337). -/
structure ModeT where
  up : Bool
  n : Reg
  off : Offset2
deriving DecidableEq, Repr

/-- The offset of addressing mode 3 (R98). -/
inductive Offset3
  | imm (v : BitVec 8)
  | reg (m : Reg)
deriving DecidableEq, Repr

/-- The index forms of mode 3: OF, PR, PT and PTW of R184. -/
inductive Index3
  /-- P = 1, W = 0. -/
  | offset
  /-- P = 1, W = 1. -/
  | pre
  /-- P = 0, W = 0. -/
  | post
  /-- P = 0, W = 1: unpredictable (R189). -/
  | postW
deriving DecidableEq, Repr

/-- Addressing mode 3 (R98, R184); `up` is U, and `n` is the base Rn. -/
structure Mode3 where
  ix : Index3
  up : Bool
  n : Reg
  off : Offset3
deriving DecidableEq, Repr

/-- Addressing mode 4 (R101, R369): `before` is P, `up` is U, `s` is the S bit, `w` the write-back bit. -/
structure Mode4 where
  before : Bool
  up : Bool
  s : Bool
  w : Bool
  n : Reg
  list : BitVec 16
deriving DecidableEq, Repr

/-- The instructions (R142). -/
inductive Instr
  /-- AND (R240). -/
  | and (c : Cond) (n d : Reg) (o : ShifterOperand)
  /-- ANDS (R240). -/
  | ands (c : Cond) (n d : Reg) (o : ShifterOperand)
  /-- EOR (R241). -/
  | eor (c : Cond) (n d : Reg) (o : ShifterOperand)
  /-- EORS (R241). -/
  | eors (c : Cond) (n d : Reg) (o : ShifterOperand)
  /-- SUB (R242). -/
  | sub (c : Cond) (n d : Reg) (o : ShifterOperand)
  /-- SUBS (R242). -/
  | subs (c : Cond) (n d : Reg) (o : ShifterOperand)
  /-- RSB (R243). -/
  | rsb (c : Cond) (n d : Reg) (o : ShifterOperand)
  /-- RSBS (R243). -/
  | rsbs (c : Cond) (n d : Reg) (o : ShifterOperand)
  /-- ADD (R244). -/
  | add (c : Cond) (n d : Reg) (o : ShifterOperand)
  /-- ADDS (R244). -/
  | adds (c : Cond) (n d : Reg) (o : ShifterOperand)
  /-- ADC (R245). -/
  | adc (c : Cond) (n d : Reg) (o : ShifterOperand)
  /-- ADCS (R245). -/
  | adcs (c : Cond) (n d : Reg) (o : ShifterOperand)
  /-- SBC (R246). -/
  | sbc (c : Cond) (n d : Reg) (o : ShifterOperand)
  /-- SBCS (R246). -/
  | sbcs (c : Cond) (n d : Reg) (o : ShifterOperand)
  /-- RSC (R247). -/
  | rsc (c : Cond) (n d : Reg) (o : ShifterOperand)
  /-- RSCS (R247). -/
  | rscs (c : Cond) (n d : Reg) (o : ShifterOperand)
  /-- TST (R248). -/
  | tst (c : Cond) (n : Reg) (o : ShifterOperand)
  /-- TEQ (R249). -/
  | teq (c : Cond) (n : Reg) (o : ShifterOperand)
  /-- CMP (R250). -/
  | cmp (c : Cond) (n : Reg) (o : ShifterOperand)
  /-- CMN (R251). -/
  | cmn (c : Cond) (n : Reg) (o : ShifterOperand)
  /-- ORR (R252). -/
  | orr (c : Cond) (n d : Reg) (o : ShifterOperand)
  /-- ORRS (R252). -/
  | orrs (c : Cond) (n d : Reg) (o : ShifterOperand)
  /-- MOV (R253). -/
  | mov (c : Cond) (d : Reg) (o : ShifterOperand)
  /-- MOVS (R253). -/
  | movs (c : Cond) (d : Reg) (o : ShifterOperand)
  /-- BIC (R254). -/
  | bic (c : Cond) (n d : Reg) (o : ShifterOperand)
  /-- BICS (R254). -/
  | bics (c : Cond) (n d : Reg) (o : ShifterOperand)
  /-- MVN (R255). -/
  | mvn (c : Cond) (d : Reg) (o : ShifterOperand)
  /-- MVNS (R255). -/
  | mvns (c : Cond) (d : Reg) (o : ShifterOperand)
  /-- MUL (R282). -/
  | mul (c : Cond) (d m s : Reg)
  /-- MULS (R282). -/
  | muls (c : Cond) (d m s : Reg)
  /-- MLA (R283). -/
  | mla (c : Cond) (d m s acc : Reg)
  /-- MLAS (R283). -/
  | mlas (c : Cond) (d m s acc : Reg)
  /-- UMULL (R284). -/
  | umull (c : Cond) (dLo dHi m s : Reg)
  /-- UMULLS (R284). -/
  | umulls (c : Cond) (dLo dHi m s : Reg)
  /-- UMLAL (R285). -/
  | umlal (c : Cond) (dLo dHi m s : Reg)
  /-- UMLALS (R285). -/
  | umlals (c : Cond) (dLo dHi m s : Reg)
  /-- SMULL (R286). -/
  | smull (c : Cond) (dLo dHi m s : Reg)
  /-- SMULLS (R286). -/
  | smulls (c : Cond) (dLo dHi m s : Reg)
  /-- SMLAL (R287). -/
  | smlal (c : Cond) (dLo dHi m s : Reg)
  /-- SMLALS (R287). -/
  | smlals (c : Cond) (dLo dHi m s : Reg)
  /-- STRH (R303). -/
  | strh (c : Cond) (d : Reg) (a : Mode3)
  /-- LDRH (R304). -/
  | ldrh (c : Cond) (d : Reg) (a : Mode3)
  /-- LDRSB (R305). -/
  | ldrsb (c : Cond) (d : Reg) (a : Mode3)
  /-- LDRSH (R306). -/
  | ldrsh (c : Cond) (d : Reg) (a : Mode3)
  /-- LDRD (R307). -/
  | ldrd (c : Cond) (d : Reg) (a : Mode3)
  /-- STRD (R308). -/
  | strd (c : Cond) (d : Reg) (a : Mode3)
  /-- LDR (R333). -/
  | ldr (c : Cond) (d : Reg) (a : Mode2)
  /-- STR (R334). -/
  | str (c : Cond) (d : Reg) (a : Mode2)
  /-- LDRB (R335). -/
  | ldrb (c : Cond) (d : Reg) (a : Mode2)
  /-- STRB (R336). -/
  | strb (c : Cond) (d : Reg) (a : Mode2)
  /-- LDRT (R337). -/
  | ldrt (c : Cond) (d : Reg) (a : ModeT)
  /-- STRT (R337). -/
  | strt (c : Cond) (d : Reg) (a : ModeT)
  /-- LDRBT (R337). -/
  | ldrbt (c : Cond) (d : Reg) (a : ModeT)
  /-- STRBT (R337). -/
  | strbt (c : Cond) (d : Reg) (a : ModeT)
  /-- SWP (R340). -/
  | swp (c : Cond) (d m n : Reg)
  /-- SWPB (R341). -/
  | swpb (c : Cond) (d m n : Reg)
  /-- B (R362). -/
  | b (c : Cond) (imm24 : BitVec 24)
  /-- BL (R363). -/
  | bl (c : Cond) (imm24 : BitVec 24)
  /-- BX (R364). -/
  | bx (c : Cond) (m : Reg)
  /-- MRS Rd, CPSR (R366). -/
  | mrsCpsr (c : Cond) (d : Reg)
  /-- MRS Rd, SPSR (R366). -/
  | mrsSpsr (c : Cond) (d : Reg)
  /-- MSR CPSR_mask (R367). -/
  | msrCpsr (c : Cond) (mask : BitVec 4) (o : PsrOperand)
  /-- MSR SPSR_mask (R367). -/
  | msrSpsr (c : Cond) (mask : BitVec 4) (o : PsrOperand)
  /-- STM (R370). -/
  | stm (c : Cond) (a : Mode4)
  /-- LDM (R371). -/
  | ldm (c : Cond) (a : Mode4)
  /-- SWI (R375). -/
  | swi (c : Cond) (comment : BitVec 24)
  /-- a word of an UNDEFINED cell; `bits` is all of the word but its condition (R377). -/
  | undefined (c : Cond) (bits : BitVec 28)
deriving DecidableEq, Repr

/-- The handler ids of the dispatch table (R142): 67 of them. -/
inductive HandlerId
  | and | ands | eor | eors | sub | subs | rsb | rsbs | add | adds | adc | adcs | sbc | sbcs
  | rsc | rscs | tst | teq | cmp | cmn | orr | orrs | mov | movs | bic | bics | mvn | mvns
  | mul | muls | mla | mlas | umull | umulls | umlal | umlals | smull | smulls | smlal | smlals
  | strh | ldrh | ldrsb | ldrsh | ldrd | strd | ldr | str | ldrb | strb | ldrt | strt | ldrbt
  | strbt | swp | swpb | b | bl | bx | mrsCpsr | mrsSpsr | msrCpsr | msrSpsr | stm | ldm | swi
  | undefined
deriving DecidableEq, Repr

/-- The off-kind of a mode-2 resolver id: I, LSL, LSR, ASR or ROR (R170). -/
inductive OffsetKind
  | imm
  | reg (t : ShiftType)
deriving DecidableEq, Repr

/-- The resolver ids of the dispatch table (R170): 60 of them. -/
inductive ResolverId
  /-- NONE. -/
  | none
  /-- IMM_ROT. -/
  | immRot
  /-- LSL_I, LSR_I, ASR_I, ROR_I. -/
  | shiftImm (t : ShiftType)
  /-- LSL_R, LSR_R, ASR_R, ROR_R. -/
  | shiftReg (t : ShiftType)
  /-- M3_ix_k_u: `imm` is k = I, `up` is u = P. -/
  | m3 (ix : Index3) (imm up : Bool)
  /-- M2_ix_k_u: `up` is u = P. -/
  | m2 (ix : Index2) (k : OffsetKind) (up : Bool)
  /-- M4_IA, M4_IB, M4_DA, M4_DB. -/
  | m4 (up before : Bool)
deriving DecidableEq, Repr

end Sys2Proof
end

