-- ==== Sys2Proof/WellFormed.lean ====
section
/-! DEFINITION. Which terms of `Instr` are instructions. Every field has the width of its encoding, so only
one check is left: the bits that an `undefined` term carries must index an UNDEFINED cell. The cells are
those R107 of spec/30_encoding.md lists, written from that list and not from the table of R141. -/

namespace Sys2Proof

/-- The columns 0xA, 0xC and 0xE, which R107 lists beside 1-8, 2-9 or 1-9. -/
def isACE (col : Nat) : Bool := col == 0xA || col == 0xC || col == 0xE

/-- R107's list of the UNDEFINED cells, line by line. -/
def undefinedCell (row col : Nat) : Bool :=
  (0x04 ≤ row && row ≤ 0x07 && col == 0x9)
  || ((row == 0x11 || row == 0x13 || row == 0x15 || (0x17 ≤ row && row ≤ 0x1F)) && col == 0x9)
  || (row == 0x10 && ((1 ≤ col && col ≤ 8) || isACE col))
  || (row == 0x12 && ((2 ≤ col && col ≤ 9) || isACE col))
  || (row == 0x14 && ((1 ≤ col && col ≤ 8) || isACE col))
  || (row == 0x16 && ((1 ≤ col && col ≤ 9) || isACE col))
  || row == 0x30 || row == 0x34
  || (0x60 ≤ row && row ≤ 0x7F && col % 2 == 1)
  || (0xC0 ≤ row && row ≤ 0xEF)

/-- The check on the bits of an `undefined` term: row `w[27:20]` and column `w[7:4]` (R91) are in R107's list. -/
def undefinedBits (bits : BitVec 28) : Bool :=
  undefinedCell (bits.extractLsb' 20 8).toNat (bits.extractLsb' 4 4).toNat

/-- A term is well formed. One line for each constructor that has a check. -/
def Instr.wellFormed : Instr → Bool
  | .undefined _ bits => undefinedBits bits
  | _ => true

end Sys2Proof
end

