-- ==== Sys2Proof/Decode.lean ====
section
/-! DEFINITION. The dispatch table (spec/41_dispatch.md R140-R147), the decoder of a word and of bytes, and the
encoder, written from the formats of spec/30_encoding.md R93-R102. Every 32-bit word decodes (R145); bytes that
do not hold a whole word are rejected by name. -/

namespace Sys2Proof

/-! ### The fields of a word -/

/-- The row selector, `w[27:20]` (R91). -/
def rowOf (w : Word) : BitVec 8 := w.extractLsb' 20 8

/-- The column selector, `w[7:4]` (R91). -/
def colOf (w : Word) : BitVec 4 := w.extractLsb' 4 4

/-- The 4-bit register number at bit `lo` (R104). -/
def regAt (w : Word) (lo : Nat) : Reg := (w.extractLsb' lo 4).toFin

/-- The condition names of R120. -/
def Cond.ofBits (b : BitVec 4) : Cond :=
  match b.toNat with
  | 0x0 => .eq | 0x1 => .ne | 0x2 => .cs | 0x3 => .cc | 0x4 => .mi | 0x5 => .pl | 0x6 => .vs | 0x7 => .vc
  | 0x8 => .hi | 0x9 => .ls | 0xA => .ge | 0xB => .lt | 0xC => .gt | 0xD => .le | 0xE => .al | _ => .nv

/-- The condition field of a condition (R120). -/
def Cond.bits : Cond → BitVec 4
  | .eq => 0x0 | .ne => 0x1 | .cs => 0x2 | .cc => 0x3 | .mi => 0x4 | .pl => 0x5 | .vs => 0x6 | .vc => 0x7
  | .hi => 0x8 | .ls => 0x9 | .ge => 0xA | .lt => 0xB | .gt => 0xC | .le => 0xD | .al => 0xE | .nv => 0xF

/-- The shift type `tt`: 00 LSL, 01 LSR, 10 ASR, 11 ROR (R94). -/
def ShiftType.ofBits (b : BitVec 2) : ShiftType :=
  match b.toNat with
  | 0 => .lsl | 1 => .lsr | 2 => .asr | _ => .ror

/-- The field of a shift type (R94). -/
def ShiftType.bits : ShiftType → BitVec 2
  | .lsl => 0 | .lsr => 1 | .asr => 2 | .ror => 3

/-! ### The dispatch table -/

/-- `DPHandler` of R141: the data-processing opcodes of R104. TST, TEQ, CMP and CMN carry no suffix. -/
def dpHandler (opc : BitVec 4) (s : Bool) : HandlerId :=
  match opc.toNat with
  | 0 => bif s then .ands else .and
  | 1 => bif s then .eors else .eor
  | 2 => bif s then .subs else .sub
  | 3 => bif s then .rsbs else .rsb
  | 4 => bif s then .adds else .add
  | 5 => bif s then .adcs else .adc
  | 6 => bif s then .sbcs else .sbc
  | 7 => bif s then .rscs else .rsc
  | 8 => .tst
  | 9 => .teq
  | 10 => .cmp
  | 11 => .cmn
  | 12 => bif s then .orrs else .orr
  | 13 => bif s then .movs else .mov
  | 14 => bif s then .bics else .bic
  | _ => bif s then .mvns else .mvn

/-- The rows whose data-processing opcode is TST, TEQ, CMP or CMN with S = 0 (R106). -/
def miscRow (row : BitVec 8) : Bool := row.extractLsb' 3 2 == 2 && !row.getLsbD 0

/-- Column 9 of the rows 0x00-0x1F: multiply and swap (R141). -/
def tableMultiply (row : BitVec 8) : HandlerId × ResolverId :=
  match row.toNat with
  | 0x00 => (.mul, .none)
  | 0x01 => (.muls, .none)
  | 0x02 => (.mla, .none)
  | 0x03 => (.mlas, .none)
  | 0x08 => (.umull, .none)
  | 0x09 => (.umulls, .none)
  | 0x0A => (.umlal, .none)
  | 0x0B => (.umlals, .none)
  | 0x0C => (.smull, .none)
  | 0x0D => (.smulls, .none)
  | 0x0E => (.smlal, .none)
  | 0x0F => (.smlals, .none)
  | 0x10 => (.swp, .none)
  | 0x14 => (.swpb, .none)
  | _ => (.undefined, .none)

/-- The mode-3 index form of P and W (R141, R184). -/
def index3 (p w : Bool) : Index3 :=
  match p, w with
  | true, false => .offset
  | true, true => .pre
  | false, false => .post
  | false, true => .postW

/-- Columns 0xB, 0xD and 0xF of the rows 0x00-0x1F: extended transfers (R141). -/
def tableExtended (row : BitVec 8) (col : BitVec 4) : HandlerId × ResolverId :=
  let l := row.getLsbD 0
  let h : HandlerId :=
    match col.toNat with
    | 0xB => bif l then .ldrh else .strh
    | 0xD => bif l then .ldrsb else .ldrd
    | _ => bif l then .ldrsh else .strd
  (h, .m3 (index3 (row.getLsbD 4) (row.getLsbD 1)) (row.getLsbD 2) (row.getLsbD 3))

/-- The miscellaneous space: MRS, MSR (register) and BX (R141). -/
def tableMisc (row : BitVec 8) (col : BitVec 4) : HandlerId × ResolverId :=
  match row.toNat, col.toNat with
  | 0x10, 0x0 => (.mrsCpsr, .none)
  | 0x14, 0x0 => (.mrsSpsr, .none)
  | 0x12, 0x0 => (.msrCpsr, .none)
  | 0x16, 0x0 => (.msrSpsr, .none)
  | 0x12, 0x1 => (.bx, .none)
  | _, _ => (.undefined, .none)

/-- Rows 0x00-0x1F (R141, `top = 000`). -/
def tableRegister (row : BitVec 8) (col : BitVec 4) : HandlerId × ResolverId :=
  if col == 0x9 then tableMultiply row
  else if col == 0xB || col == 0xD || col == 0xF then tableExtended row col
  else if miscRow row then tableMisc row col
  else
    let t := ShiftType.ofBits (col.extractLsb' 1 2)
    (dpHandler (row.extractLsb' 1 4) (row.getLsbD 0), bif col.getLsbD 0 then .shiftReg t else .shiftImm t)

/-- Rows 0x20-0x3F (R141, `top = 001`). -/
def tableImmediate (row : BitVec 8) : HandlerId × ResolverId :=
  if miscRow row then
    match row.toNat with
    | 0x32 => (.msrCpsr, .immRot)
    | 0x36 => (.msrSpsr, .immRot)
    | _ => (.undefined, .none)
  else (dpHandler (row.extractLsb' 1 4) (row.getLsbD 0), .immRot)

/-- The handler of a single data transfer: L, B, and T when P = 0 and W = 1 (R141). -/
def singleHandler (l b t : Bool) : HandlerId :=
  match l, b, t with
  | false, false, false => .str
  | false, false, true => .strt
  | false, true, false => .strb
  | false, true, true => .strbt
  | true, false, false => .ldr
  | true, false, true => .ldrt
  | true, true, false => .ldrb
  | true, true, true => .ldrbt

/-- The mode-2 index form of P and W (R141, R184). -/
def index2 (p w : Bool) : Index2 := bif p then (bif w then .pre else .offset) else .post

/-- Rows 0x40-0x7F (R141, `top` 010 and 011). -/
def tableSingle (row : BitVec 8) (col : BitVec 4) : HandlerId × ResolverId :=
  let scaled := row.getLsbD 5
  if scaled && col.getLsbD 0 then (.undefined, .none)
  else
    let p := row.getLsbD 4
    let w := row.getLsbD 1
    let k : OffsetKind := bif scaled then .reg (ShiftType.ofBits (col.extractLsb' 1 2)) else .imm
    (singleHandler (row.getLsbD 0) (row.getLsbD 2) (!p && w), .m2 (index2 p w) k (row.getLsbD 3))

/-- The dispatch table: the pair (handler id, resolver id) of every cell (R141). -/
def table (row : BitVec 8) (col : BitVec 4) : HandlerId × ResolverId :=
  match (row.extractLsb' 5 3).toNat with
  | 0 => tableRegister row col
  | 1 => tableImmediate row
  | 2 | 3 => tableSingle row col
  | 4 => (bif row.getLsbD 0 then .ldm else .stm, .m4 (row.getLsbD 3) (row.getLsbD 4))
  | 5 => (bif row.getLsbD 4 then .bl else .b, .none)
  | 6 => (.undefined, .none)
  | _ => bif row.getLsbD 4 then (.swi, .none) else (.undefined, .none)

/-! ### Operands: the fields a resolver reads -/

/-- The shift amount `w[11:7]` (R94). -/
def shiftAmount (w : Word) : BitVec 5 := w.extractLsb' 7 5

/-- The shifter operand that a resolver id and a word give (R93-R95). The last arm is reached by no cell of the
table: R141 pairs a data-processing handler with a shifter resolver only. -/
def shifterOperand (r : ResolverId) (w : Word) : ShifterOperand :=
  match r with
  | .shiftImm t => .shiftImm t (shiftAmount w) (regAt w 0)
  | .shiftReg t => .shiftReg t (regAt w 8) (regAt w 0)
  | _ => .imm (w.extractLsb' 8 4) (w.extractLsb' 0 8)

/-- The operand of MSR: resolver IMM_ROT, or NONE for the register form (R99). -/
def psrOperand (r : ResolverId) (w : Word) : PsrOperand :=
  match r with
  | .immRot => .imm (w.extractLsb' 8 4) (w.extractLsb' 0 8)
  | _ => .reg (regAt w 0)

/-- The mode-2 offset (R100). -/
def offset2 (k : OffsetKind) (w : Word) : Offset2 :=
  match k with
  | .imm => .imm (w.extractLsb' 0 12)
  | .reg t => .reg t (shiftAmount w) (regAt w 0)

/-- The mode-2 operand that a resolver id and a word give. The last arm is reached by no cell of the table. -/
def mode2 (r : ResolverId) (w : Word) : Mode2 :=
  match r with
  | .m2 ix k up => ⟨ix, up, regAt w 16, offset2 k w⟩
  | _ => ⟨.post, false, regAt w 16, offset2 .imm w⟩

/-- The operand of a T form: the mode-2 operand without its index form, which is post-indexed (R337). -/
def modeT (r : ResolverId) (w : Word) : ModeT :=
  let a := mode2 r w
  ⟨a.up, a.n, a.off⟩

/-- The mode-3 offset (R98): `w[11:8] : w[3:0]`, or Rm. -/
def offset3 (imm : Bool) (w : Word) : Offset3 :=
  bif imm then .imm (w.extractLsb' 8 4 ++ w.extractLsb' 0 4) else .reg (regAt w 0)

/-- The mode-3 operand that a resolver id and a word give. The last arm is reached by no cell of the table. -/
def mode3 (r : ResolverId) (w : Word) : Mode3 :=
  match r with
  | .m3 ix imm up => ⟨ix, up, regAt w 16, offset3 imm w⟩
  | _ => ⟨.post, false, regAt w 16, offset3 false w⟩

/-- The mode-4 operand (R101, R369). The last arm is reached by no cell of the table. -/
def mode4 (r : ResolverId) (w : Word) : Mode4 :=
  match r with
  | .m4 up before => ⟨before, up, w.getLsbD 22, w.getLsbD 21, regAt w 16, w.extractLsb' 0 16⟩
  | _ => ⟨false, false, w.getLsbD 22, w.getLsbD 21, regAt w 16, w.extractLsb' 0 16⟩

/-! ### The decoder -/

/-- The instruction that a cell and a word give. -/
def instrOf (h : HandlerId) (r : ResolverId) (w : Word) : Instr :=
  let c := Cond.ofBits (w.extractLsb' 28 4)
  match h with
  | .and => .and c (regAt w 16) (regAt w 12) (shifterOperand r w)
  | .ands => .ands c (regAt w 16) (regAt w 12) (shifterOperand r w)
  | .eor => .eor c (regAt w 16) (regAt w 12) (shifterOperand r w)
  | .eors => .eors c (regAt w 16) (regAt w 12) (shifterOperand r w)
  | .sub => .sub c (regAt w 16) (regAt w 12) (shifterOperand r w)
  | .subs => .subs c (regAt w 16) (regAt w 12) (shifterOperand r w)
  | .rsb => .rsb c (regAt w 16) (regAt w 12) (shifterOperand r w)
  | .rsbs => .rsbs c (regAt w 16) (regAt w 12) (shifterOperand r w)
  | .add => .add c (regAt w 16) (regAt w 12) (shifterOperand r w)
  | .adds => .adds c (regAt w 16) (regAt w 12) (shifterOperand r w)
  | .adc => .adc c (regAt w 16) (regAt w 12) (shifterOperand r w)
  | .adcs => .adcs c (regAt w 16) (regAt w 12) (shifterOperand r w)
  | .sbc => .sbc c (regAt w 16) (regAt w 12) (shifterOperand r w)
  | .sbcs => .sbcs c (regAt w 16) (regAt w 12) (shifterOperand r w)
  | .rsc => .rsc c (regAt w 16) (regAt w 12) (shifterOperand r w)
  | .rscs => .rscs c (regAt w 16) (regAt w 12) (shifterOperand r w)
  | .tst => .tst c (regAt w 16) (shifterOperand r w)
  | .teq => .teq c (regAt w 16) (shifterOperand r w)
  | .cmp => .cmp c (regAt w 16) (shifterOperand r w)
  | .cmn => .cmn c (regAt w 16) (shifterOperand r w)
  | .orr => .orr c (regAt w 16) (regAt w 12) (shifterOperand r w)
  | .orrs => .orrs c (regAt w 16) (regAt w 12) (shifterOperand r w)
  | .mov => .mov c (regAt w 12) (shifterOperand r w)
  | .movs => .movs c (regAt w 12) (shifterOperand r w)
  | .bic => .bic c (regAt w 16) (regAt w 12) (shifterOperand r w)
  | .bics => .bics c (regAt w 16) (regAt w 12) (shifterOperand r w)
  | .mvn => .mvn c (regAt w 12) (shifterOperand r w)
  | .mvns => .mvns c (regAt w 12) (shifterOperand r w)
  | .mul => .mul c (regAt w 16) (regAt w 0) (regAt w 8)
  | .muls => .muls c (regAt w 16) (regAt w 0) (regAt w 8)
  | .mla => .mla c (regAt w 16) (regAt w 0) (regAt w 8) (regAt w 12)
  | .mlas => .mlas c (regAt w 16) (regAt w 0) (regAt w 8) (regAt w 12)
  | .umull => .umull c (regAt w 12) (regAt w 16) (regAt w 0) (regAt w 8)
  | .umulls => .umulls c (regAt w 12) (regAt w 16) (regAt w 0) (regAt w 8)
  | .umlal => .umlal c (regAt w 12) (regAt w 16) (regAt w 0) (regAt w 8)
  | .umlals => .umlals c (regAt w 12) (regAt w 16) (regAt w 0) (regAt w 8)
  | .smull => .smull c (regAt w 12) (regAt w 16) (regAt w 0) (regAt w 8)
  | .smulls => .smulls c (regAt w 12) (regAt w 16) (regAt w 0) (regAt w 8)
  | .smlal => .smlal c (regAt w 12) (regAt w 16) (regAt w 0) (regAt w 8)
  | .smlals => .smlals c (regAt w 12) (regAt w 16) (regAt w 0) (regAt w 8)
  | .strh => .strh c (regAt w 12) (mode3 r w)
  | .ldrh => .ldrh c (regAt w 12) (mode3 r w)
  | .ldrsb => .ldrsb c (regAt w 12) (mode3 r w)
  | .ldrsh => .ldrsh c (regAt w 12) (mode3 r w)
  | .ldrd => .ldrd c (regAt w 12) (mode3 r w)
  | .strd => .strd c (regAt w 12) (mode3 r w)
  | .ldr => .ldr c (regAt w 12) (mode2 r w)
  | .str => .str c (regAt w 12) (mode2 r w)
  | .ldrb => .ldrb c (regAt w 12) (mode2 r w)
  | .strb => .strb c (regAt w 12) (mode2 r w)
  | .ldrt => .ldrt c (regAt w 12) (modeT r w)
  | .strt => .strt c (regAt w 12) (modeT r w)
  | .ldrbt => .ldrbt c (regAt w 12) (modeT r w)
  | .strbt => .strbt c (regAt w 12) (modeT r w)
  | .swp => .swp c (regAt w 12) (regAt w 0) (regAt w 16)
  | .swpb => .swpb c (regAt w 12) (regAt w 0) (regAt w 16)
  | .b => .b c (w.extractLsb' 0 24)
  | .bl => .bl c (w.extractLsb' 0 24)
  | .bx => .bx c (regAt w 0)
  | .mrsCpsr => .mrsCpsr c (regAt w 12)
  | .mrsSpsr => .mrsSpsr c (regAt w 12)
  | .msrCpsr => .msrCpsr c (w.extractLsb' 16 4) (psrOperand r w)
  | .msrSpsr => .msrSpsr c (w.extractLsb' 16 4) (psrOperand r w)
  | .stm => .stm c (mode4 r w)
  | .ldm => .ldm c (mode4 r w)
  | .swi => .swi c (w.extractLsb' 0 24)
  | .undefined => .undefined c (w.extractLsb' 0 28)

/-- The decoder: the table's cell for the word's row and column, and the fields its resolver and handler read
(R92, R143). Total (R145). -/
def decodeWord (w : Word) : Instr :=
  let cell := table (rowOf w) (colOf w)
  instrOf cell.1 cell.2 w

/-- Why bytes are not an instruction. -/
inductive DecodeError
  /-- Fewer than the four bytes of an instruction (R90). -/
  | truncated
deriving DecidableEq, Repr

/-- The decoder of bytes in ascending address order, little-endian (R64); it also gives the bytes that are left. -/
def decode : List Byte → Except DecodeError (Instr × List Byte)
  | b0 :: b1 :: b2 :: b3 :: rest => .ok (decodeWord (b3 ++ b2 ++ b1 ++ b0), rest)
  | _ => .error .truncated

/-- The four bytes of a word, the first at the lowest address (R64). -/
def wordBytes (w : Word) : List Byte :=
  [w.extractLsb' 0 8, w.extractLsb' 8 8, w.extractLsb' 16 8, w.extractLsb' 24 8]

/-- The word of the low `nbits` bits of `w`; every higher bit is 0. -/
def tableWord (nbits w : Nat) : Word := BitVec.ofNat 32 (w % 2 ^ nbits)

/-- What the decoder reads from a word numbered as spec/opcode_table.json numbers it. -/
def decodeTableWord (nbits w : Nat) : Option Instr :=
  match decode (wordBytes (tableWord nbits w)) with
  | .ok (i, _) => some i
  | .error _ => none

/-! ### The encoder -/

/-- A register number as a field (R104). -/
def Reg.bits (r : Reg) : BitVec 4 := BitVec.ofFin r

/-- One bit. -/
def bit (b : Bool) : BitVec 1 := BitVec.ofBool b

/-- The row of a data-processing word: `00I oooo S` (R93-R95). -/
def dpRow (i : Bool) (opc : BitVec 4) (s : Bool) : BitVec 8 := 0b00#2 ++ bit i ++ opc ++ bit s

/-- Bits 11:4 of a register shifted by a constant: `aaaaa tt 0` (R94, R100). -/
def shiftImmField (t : ShiftType) (amt : BitVec 5) : BitVec 8 := amt ++ t.bits ++ 0#1

/-- Bits 7:4 of a register shifted by a register: `0 tt 1` (R95). -/
def shiftRegField (t : ShiftType) : BitVec 4 := 0#1 ++ t.bits ++ 1#1

/-- Format DP_I, DP_SI or DP_SR (R93-R95): `opc` is `w[24:21]`, `s` is `w[20]`. -/
def encodeDp (c : Cond) (opc : BitVec 4) (s : Bool) (n d : Reg) : ShifterOperand → Word
  | .imm rot imm8 => c.bits ++ dpRow true opc s ++ n.bits ++ d.bits ++ rot ++ imm8
  | .shiftImm t amt m => c.bits ++ dpRow false opc s ++ n.bits ++ d.bits ++ shiftImmField t amt ++ m.bits
  | .shiftReg t rs m => c.bits ++ dpRow false opc s ++ n.bits ++ d.bits ++ rs.bits ++ shiftRegField t ++ m.bits

/-- Format MUL, MULL or SWP (R96, R97): `row` is `w[27:20]`, `hi` is `w[19:16]`, `lo` is `w[15:12]`. -/
def encodeMul (c : Cond) (row : BitVec 8) (hi lo s m : Reg) : Word :=
  c.bits ++ row ++ hi.bits ++ lo.bits ++ s.bits ++ 0x9#4 ++ m.bits

/-- P of a mode-3 index form (R184). -/
def Index3.p : Index3 → Bool
  | .offset => true | .pre => true | .post => false | .postW => false

/-- W of a mode-3 index form (R184). -/
def Index3.w : Index3 → Bool
  | .offset => false | .pre => true | .post => false | .postW => true

/-- The row of an extended transfer: `000 P U I W L` (R98). -/
def xtRow (ix : Index3) (up imm l : Bool) : BitVec 8 :=
  0b000#3 ++ bit ix.p ++ bit up ++ bit imm ++ bit ix.w ++ bit l

/-- The column of an extended transfer: `1 S H 1` (R98). -/
def xtCol (sh : BitVec 2) : BitVec 4 := 1#1 ++ sh ++ 1#1

/-- Format XT (R98): `l` is L, `sh` is `w[6:5]`. -/
def encodeXt (c : Cond) (l : Bool) (sh : BitVec 2) (d : Reg) (a : Mode3) : Word :=
  match a.off with
  | .imm v =>
    c.bits ++ xtRow a.ix a.up true l ++ a.n.bits ++ d.bits ++ v.extractLsb' 4 4 ++ xtCol sh ++ v.extractLsb' 0 4
  | .reg m => c.bits ++ xtRow a.ix a.up false l ++ a.n.bits ++ d.bits ++ 0#4 ++ xtCol sh ++ m.bits

/-- P of a mode-2 index form (R184). -/
def Index2.p : Index2 → Bool
  | .offset => true | .pre => true | .post => false

/-- W of a mode-2 index form of a plain transfer (R184). -/
def Index2.w : Index2 → Bool
  | .offset => false | .pre => true | .post => false

/-- The row of a single transfer: `01I P U B W L` (R100). -/
def stRow (scaled p up byte w l : Bool) : BitVec 8 :=
  0b01#2 ++ bit scaled ++ bit p ++ bit up ++ bit byte ++ bit w ++ bit l

/-- Format ST_I or ST_R (R100): `p`, `byte`, `w` and `l` are the bits P, B, W and L. -/
def encodeSt (c : Cond) (p byte w l : Bool) (d : Reg) (up : Bool) (n : Reg) : Offset2 → Word
  | .imm v => c.bits ++ stRow false p up byte w l ++ n.bits ++ d.bits ++ v
  | .reg t amt m => c.bits ++ stRow true p up byte w l ++ n.bits ++ d.bits ++ shiftImmField t amt ++ m.bits

/-- A plain single transfer. -/
def encodeSt2 (c : Cond) (byte l : Bool) (d : Reg) (a : Mode2) : Word :=
  encodeSt c a.ix.p byte a.ix.w l d a.up a.n a.off

/-- A T form: P = 0 and W = 1 (R337). -/
def encodeStT (c : Cond) (byte l : Bool) (d : Reg) (a : ModeT) : Word :=
  encodeSt c false byte true l d a.up a.n a.off

/-- The row of a status-register access: `00i1 0 R w 0` (R99), with `imm` for MSR_I and `write` for MSR. -/
def psrRow (imm spsr write : Bool) : BitVec 8 := 0b00#2 ++ bit imm ++ 0b10#2 ++ bit spsr ++ bit write ++ 0#1

/-- Format MRS (R99): `spsr` is R. -/
def encodeMrs (c : Cond) (spsr : Bool) (d : Reg) : Word :=
  c.bits ++ psrRow false spsr false ++ 0xF#4 ++ d.bits ++ 0x0#4 ++ 0x0#4 ++ 0x0#4

/-- Format MSR_R or MSR_I (R99): `spsr` is R. -/
def encodeMsr (c : Cond) (spsr : Bool) (mask : BitVec 4) : PsrOperand → Word
  | .reg m => c.bits ++ psrRow false spsr true ++ mask ++ 0xF#4 ++ 0x0#4 ++ 0x0#4 ++ m.bits
  | .imm rot imm8 => c.bits ++ psrRow true spsr true ++ mask ++ 0xF#4 ++ rot ++ imm8

/-- Format BX (R99). -/
def encodeBx (c : Cond) (m : Reg) : Word := c.bits ++ 0x12#8 ++ 0xF#4 ++ 0xF#4 ++ 0xF#4 ++ 0x1#4 ++ m.bits

/-- The row of a block transfer: `100 P U S W L` (R101). -/
def blkRow (p up s w l : Bool) : BitVec 8 := 0b100#3 ++ bit p ++ bit up ++ bit s ++ bit w ++ bit l

/-- Format BLK (R101). -/
def encodeBlk (c : Cond) (l : Bool) (a : Mode4) : Word :=
  c.bits ++ blkRow a.before a.up a.s a.w l ++ a.n.bits ++ a.list

/-- Formats BR and SWI (R102): `op` is `w[27:24]`. -/
def encodeBr (c : Cond) (op : BitVec 4) (field : BitVec 24) : Word := c.bits ++ op ++ field

/-- The encoder, from the formats of R93-R102; fields that R108 ignores hold their canonical value. -/
def encode : Instr → Word
  | .and c n d o => encodeDp c 0 false n d o
  | .ands c n d o => encodeDp c 0 true n d o
  | .eor c n d o => encodeDp c 1 false n d o
  | .eors c n d o => encodeDp c 1 true n d o
  | .sub c n d o => encodeDp c 2 false n d o
  | .subs c n d o => encodeDp c 2 true n d o
  | .rsb c n d o => encodeDp c 3 false n d o
  | .rsbs c n d o => encodeDp c 3 true n d o
  | .add c n d o => encodeDp c 4 false n d o
  | .adds c n d o => encodeDp c 4 true n d o
  | .adc c n d o => encodeDp c 5 false n d o
  | .adcs c n d o => encodeDp c 5 true n d o
  | .sbc c n d o => encodeDp c 6 false n d o
  | .sbcs c n d o => encodeDp c 6 true n d o
  | .rsc c n d o => encodeDp c 7 false n d o
  | .rscs c n d o => encodeDp c 7 true n d o
  | .tst c n o => encodeDp c 8 true n 0 o
  | .teq c n o => encodeDp c 9 true n 0 o
  | .cmp c n o => encodeDp c 10 true n 0 o
  | .cmn c n o => encodeDp c 11 true n 0 o
  | .orr c n d o => encodeDp c 12 false n d o
  | .orrs c n d o => encodeDp c 12 true n d o
  | .mov c d o => encodeDp c 13 false 0 d o
  | .movs c d o => encodeDp c 13 true 0 d o
  | .bic c n d o => encodeDp c 14 false n d o
  | .bics c n d o => encodeDp c 14 true n d o
  | .mvn c d o => encodeDp c 15 false 0 d o
  | .mvns c d o => encodeDp c 15 true 0 d o
  | .mul c d m s => encodeMul c 0x00 d 0 s m
  | .muls c d m s => encodeMul c 0x01 d 0 s m
  | .mla c d m s acc => encodeMul c 0x02 d acc s m
  | .mlas c d m s acc => encodeMul c 0x03 d acc s m
  | .umull c dLo dHi m s => encodeMul c 0x08 dHi dLo s m
  | .umulls c dLo dHi m s => encodeMul c 0x09 dHi dLo s m
  | .umlal c dLo dHi m s => encodeMul c 0x0A dHi dLo s m
  | .umlals c dLo dHi m s => encodeMul c 0x0B dHi dLo s m
  | .smull c dLo dHi m s => encodeMul c 0x0C dHi dLo s m
  | .smulls c dLo dHi m s => encodeMul c 0x0D dHi dLo s m
  | .smlal c dLo dHi m s => encodeMul c 0x0E dHi dLo s m
  | .smlals c dLo dHi m s => encodeMul c 0x0F dHi dLo s m
  | .strh c d a => encodeXt c false 0b01 d a
  | .ldrh c d a => encodeXt c true 0b01 d a
  | .ldrsb c d a => encodeXt c true 0b10 d a
  | .ldrsh c d a => encodeXt c true 0b11 d a
  | .ldrd c d a => encodeXt c false 0b10 d a
  | .strd c d a => encodeXt c false 0b11 d a
  | .ldr c d a => encodeSt2 c false true d a
  | .str c d a => encodeSt2 c false false d a
  | .ldrb c d a => encodeSt2 c true true d a
  | .strb c d a => encodeSt2 c true false d a
  | .ldrt c d a => encodeStT c false true d a
  | .strt c d a => encodeStT c false false d a
  | .ldrbt c d a => encodeStT c true true d a
  | .strbt c d a => encodeStT c true false d a
  | .swp c d m n => encodeMul c 0x10 n d 0 m
  | .swpb c d m n => encodeMul c 0x14 n d 0 m
  | .b c imm24 => encodeBr c 0xA imm24
  | .bl c imm24 => encodeBr c 0xB imm24
  | .bx c m => encodeBx c m
  | .mrsCpsr c d => encodeMrs c false d
  | .mrsSpsr c d => encodeMrs c true d
  | .msrCpsr c mask o => encodeMsr c false mask o
  | .msrSpsr c mask o => encodeMsr c true mask o
  | .stm c a => encodeBlk c false a
  | .ldm c a => encodeBlk c true a
  | .swi c comment => encodeBr c 0xF comment
  | .undefined c bits => c.bits ++ bits

/-! ### The parts of an instruction that the step reads -/

/-- The condition of an instruction: `w[31:28]` of its word (R91). -/
def Instr.cond : Instr → Cond
  | .and c _ _ _ => c
  | .ands c _ _ _ => c
  | .eor c _ _ _ => c
  | .eors c _ _ _ => c
  | .sub c _ _ _ => c
  | .subs c _ _ _ => c
  | .rsb c _ _ _ => c
  | .rsbs c _ _ _ => c
  | .add c _ _ _ => c
  | .adds c _ _ _ => c
  | .adc c _ _ _ => c
  | .adcs c _ _ _ => c
  | .sbc c _ _ _ => c
  | .sbcs c _ _ _ => c
  | .rsc c _ _ _ => c
  | .rscs c _ _ _ => c
  | .tst c _ _ => c
  | .teq c _ _ => c
  | .cmp c _ _ => c
  | .cmn c _ _ => c
  | .orr c _ _ _ => c
  | .orrs c _ _ _ => c
  | .mov c _ _ => c
  | .movs c _ _ => c
  | .bic c _ _ _ => c
  | .bics c _ _ _ => c
  | .mvn c _ _ => c
  | .mvns c _ _ => c
  | .mul c _ _ _ => c
  | .muls c _ _ _ => c
  | .mla c _ _ _ _ => c
  | .mlas c _ _ _ _ => c
  | .umull c _ _ _ _ => c
  | .umulls c _ _ _ _ => c
  | .umlal c _ _ _ _ => c
  | .umlals c _ _ _ _ => c
  | .smull c _ _ _ _ => c
  | .smulls c _ _ _ _ => c
  | .smlal c _ _ _ _ => c
  | .smlals c _ _ _ _ => c
  | .strh c _ _ => c
  | .ldrh c _ _ => c
  | .ldrsb c _ _ => c
  | .ldrsh c _ _ => c
  | .ldrd c _ _ => c
  | .strd c _ _ => c
  | .ldr c _ _ => c
  | .str c _ _ => c
  | .ldrb c _ _ => c
  | .strb c _ _ => c
  | .ldrt c _ _ => c
  | .strt c _ _ => c
  | .ldrbt c _ _ => c
  | .strbt c _ _ => c
  | .swp c _ _ _ => c
  | .swpb c _ _ _ => c
  | .b c _ => c
  | .bl c _ => c
  | .bx c _ => c
  | .mrsCpsr c _ => c
  | .mrsSpsr c _ => c
  | .msrCpsr c _ _ => c
  | .msrSpsr c _ _ => c
  | .stm c _ => c
  | .ldm c _ => c
  | .swi c _ => c
  | .undefined c _ => c

/-- The handler id of an instruction (R142). -/
def Instr.handler : Instr → HandlerId
  | .and _ _ _ _ => .and
  | .ands _ _ _ _ => .ands
  | .eor _ _ _ _ => .eor
  | .eors _ _ _ _ => .eors
  | .sub _ _ _ _ => .sub
  | .subs _ _ _ _ => .subs
  | .rsb _ _ _ _ => .rsb
  | .rsbs _ _ _ _ => .rsbs
  | .add _ _ _ _ => .add
  | .adds _ _ _ _ => .adds
  | .adc _ _ _ _ => .adc
  | .adcs _ _ _ _ => .adcs
  | .sbc _ _ _ _ => .sbc
  | .sbcs _ _ _ _ => .sbcs
  | .rsc _ _ _ _ => .rsc
  | .rscs _ _ _ _ => .rscs
  | .tst _ _ _ => .tst
  | .teq _ _ _ => .teq
  | .cmp _ _ _ => .cmp
  | .cmn _ _ _ => .cmn
  | .orr _ _ _ _ => .orr
  | .orrs _ _ _ _ => .orrs
  | .mov _ _ _ => .mov
  | .movs _ _ _ => .movs
  | .bic _ _ _ _ => .bic
  | .bics _ _ _ _ => .bics
  | .mvn _ _ _ => .mvn
  | .mvns _ _ _ => .mvns
  | .mul _ _ _ _ => .mul
  | .muls _ _ _ _ => .muls
  | .mla _ _ _ _ _ => .mla
  | .mlas _ _ _ _ _ => .mlas
  | .umull _ _ _ _ _ => .umull
  | .umulls _ _ _ _ _ => .umulls
  | .umlal _ _ _ _ _ => .umlal
  | .umlals _ _ _ _ _ => .umlals
  | .smull _ _ _ _ _ => .smull
  | .smulls _ _ _ _ _ => .smulls
  | .smlal _ _ _ _ _ => .smlal
  | .smlals _ _ _ _ _ => .smlals
  | .strh _ _ _ => .strh
  | .ldrh _ _ _ => .ldrh
  | .ldrsb _ _ _ => .ldrsb
  | .ldrsh _ _ _ => .ldrsh
  | .ldrd _ _ _ => .ldrd
  | .strd _ _ _ => .strd
  | .ldr _ _ _ => .ldr
  | .str _ _ _ => .str
  | .ldrb _ _ _ => .ldrb
  | .strb _ _ _ => .strb
  | .ldrt _ _ _ => .ldrt
  | .strt _ _ _ => .strt
  | .ldrbt _ _ _ => .ldrbt
  | .strbt _ _ _ => .strbt
  | .swp _ _ _ _ => .swp
  | .swpb _ _ _ _ => .swpb
  | .b _ _ => .b
  | .bl _ _ => .bl
  | .bx _ _ => .bx
  | .mrsCpsr _ _ => .mrsCpsr
  | .mrsSpsr _ _ => .mrsSpsr
  | .msrCpsr _ _ _ => .msrCpsr
  | .msrSpsr _ _ _ => .msrSpsr
  | .stm _ _ => .stm
  | .ldm _ _ => .ldm
  | .swi _ _ => .swi
  | .undefined _ _ => .undefined

/-- The resolver id of a shifter operand (R170). -/
def ShifterOperand.resolver : ShifterOperand → ResolverId
  | .imm _ _ => .immRot
  | .shiftImm t _ _ => .shiftImm t
  | .shiftReg t _ _ => .shiftReg t

/-- The resolver id of the operand of MSR (R170). -/
def PsrOperand.resolver : PsrOperand → ResolverId
  | .reg _ => .none
  | .imm _ _ => .immRot

/-- The off-kind of a mode-2 offset (R170). -/
def Offset2.kind : Offset2 → OffsetKind
  | .imm _ => .imm
  | .reg t _ _ => .reg t

/-- The resolver id of a mode-3 operand (R170). -/
def Mode3.resolver (a : Mode3) : ResolverId :=
  match a.off with
  | .imm _ => .m3 a.ix true a.up
  | .reg _ => .m3 a.ix false a.up

/-- The resolver id of an instruction (R142, R170). -/
def Instr.resolver : Instr → ResolverId
  | .and _ _ _ o => o.resolver
  | .ands _ _ _ o => o.resolver
  | .eor _ _ _ o => o.resolver
  | .eors _ _ _ o => o.resolver
  | .sub _ _ _ o => o.resolver
  | .subs _ _ _ o => o.resolver
  | .rsb _ _ _ o => o.resolver
  | .rsbs _ _ _ o => o.resolver
  | .add _ _ _ o => o.resolver
  | .adds _ _ _ o => o.resolver
  | .adc _ _ _ o => o.resolver
  | .adcs _ _ _ o => o.resolver
  | .sbc _ _ _ o => o.resolver
  | .sbcs _ _ _ o => o.resolver
  | .rsc _ _ _ o => o.resolver
  | .rscs _ _ _ o => o.resolver
  | .tst _ _ o => o.resolver
  | .teq _ _ o => o.resolver
  | .cmp _ _ o => o.resolver
  | .cmn _ _ o => o.resolver
  | .orr _ _ _ o => o.resolver
  | .orrs _ _ _ o => o.resolver
  | .mov _ _ o => o.resolver
  | .movs _ _ o => o.resolver
  | .bic _ _ _ o => o.resolver
  | .bics _ _ _ o => o.resolver
  | .mvn _ _ o => o.resolver
  | .mvns _ _ o => o.resolver
  | .mul _ _ _ _ => .none
  | .muls _ _ _ _ => .none
  | .mla _ _ _ _ _ => .none
  | .mlas _ _ _ _ _ => .none
  | .umull _ _ _ _ _ => .none
  | .umulls _ _ _ _ _ => .none
  | .umlal _ _ _ _ _ => .none
  | .umlals _ _ _ _ _ => .none
  | .smull _ _ _ _ _ => .none
  | .smulls _ _ _ _ _ => .none
  | .smlal _ _ _ _ _ => .none
  | .smlals _ _ _ _ _ => .none
  | .strh _ _ a => a.resolver
  | .ldrh _ _ a => a.resolver
  | .ldrsb _ _ a => a.resolver
  | .ldrsh _ _ a => a.resolver
  | .ldrd _ _ a => a.resolver
  | .strd _ _ a => a.resolver
  | .ldr _ _ a => .m2 a.ix a.off.kind a.up
  | .str _ _ a => .m2 a.ix a.off.kind a.up
  | .ldrb _ _ a => .m2 a.ix a.off.kind a.up
  | .strb _ _ a => .m2 a.ix a.off.kind a.up
  | .ldrt _ _ a => .m2 .post a.off.kind a.up
  | .strt _ _ a => .m2 .post a.off.kind a.up
  | .ldrbt _ _ a => .m2 .post a.off.kind a.up
  | .strbt _ _ a => .m2 .post a.off.kind a.up
  | .swp _ _ _ _ => .none
  | .swpb _ _ _ _ => .none
  | .b _ _ => .none
  | .bl _ _ => .none
  | .bx _ _ => .none
  | .mrsCpsr _ _ => .none
  | .mrsSpsr _ _ => .none
  | .msrCpsr _ _ o => o.resolver
  | .msrSpsr _ _ o => o.resolver
  | .stm _ a => .m4 a.up a.before
  | .ldm _ a => .m4 a.up a.before
  | .swi _ _ => .none
  | .undefined _ _ => .none

end Sys2Proof
end

