-- ==== Sys2Proof/Machine/Launch.lean ====
section
/-! DEFINITION. The launch values that the spec leaves to the model: the parameters of R9 and the reset values of the
CPU-context state to which R44 gives none. Each is named in a log entry. -/

namespace Sys2Proof.Machine

/-- The launch parameters (R9). UNPRED, misalign and the entries are set to the alternative that gives every
instruction its effect, not to R9's default (DESIGN CHOICE, log 1); pcStoreExtra, regShiftPcExtra, resetPC and mem are
R9's defaults; ctx is the context of R440 (log 12); the PSR bits are the model's (DESIGN CHOICE, log 6). -/
def launchParams : Params :=
  { unpred := .compute
    misalign := .arm7tdmi
    regShiftPcExtra := .zero
    pcStoreExtra := .zero
    resetPC := 0x00000000
    undefEntry := .reference
    swiEntry := .reference
    interruptEntry := .reference
    ctx := .reference
    mem := .flat
    userPsrBits := 0xFF000000
    privPsrBits := 0xFFFFFFDF }

/-- The launch value of every bank of r0..r14 (R44 gives none; DESIGN CHOICE, log 2). -/
def launchReg : Word := 0

/-- The launch value of N, Z, C and V (R44 gives none; DESIGN CHOICE, log 2). -/
def launchFlag : Bool := false

/-- The launch value of CPSR[27:0]: Supervisor mode with I = F = 1 and T = 0, the reference of R44 (DESIGN CHOICE for
bits 27:8, log 2). -/
def launchCpsrRest : BitVec 28 := 0x00000D3

/-- The launch value of every SPSR (R44 gives none; DESIGN CHOICE, log 2). -/
def launchSpsr : Word := 0

/-- What a byte of memory reads as that nothing has written: the launch value of R65, which the spec leaves to the program
image (DESIGN CHOICE, log 3). -/
def unlistedByte : Byte := 0

end Sys2Proof.Machine
end

