-- ==== Sys2Proof/Machine/State.lean ====
section
/-! DEFINITION. The state of the block (spec/10_state.md R30-R32), of its CPU context (R33-R40, spec/60_exceptions.md
R440) and of its memory (spec/20_memory.md R65), the model's own fields, the reasons a step can stop, and the state after
reset (R44, R460). -/

namespace Sys2Proof.Machine

/-- A program status register (R37). The flags are "four booleans" (R36) that stand at bits 31 (N), 30 (Z), 29 (C) and 28
(V) of the word; `rest` is bits 27:0, with I at 7, F at 6, T at 5 and the mode at 4:0. -/
structure Psr where
  n : Bool
  z : Bool
  c : Bool
  v : Bool
  rest : BitVec 28
deriving DecidableEq, Repr, Inhabited

/-- The general registers of every mode (R35, R440); r15 is `State.pc`. -/
structure RegFile where
  /-- r0..r14 of User and System mode, and r0..r7 of every mode. -/
  usr : Vector Word 15
  /-- r8_fiq..r14_fiq. -/
  fiq : Vector Word 7
  /-- r13_irq, r14_irq. -/
  irq : Vector Word 2
  /-- r13_svc, r14_svc. -/
  svc : Vector Word 2
  /-- r13_abt, r14_abt. -/
  abt : Vector Word 2
  /-- r13_und, r14_und. -/
  und : Vector Word 2
deriving DecidableEq, Repr, Inhabited

/-- A physical register. -/
inductive RegCell
  | usr (i : Fin 15)
  | fiq (i : Fin 7)
  | irq (i : Fin 2)
  | svc (i : Fin 2)
  | abt (i : Fin 2)
  | und (i : Fin 2)
deriving DecidableEq, Repr

/-- The saved status registers, one for each mode an exception enters (R37, R440). -/
structure SpsrFile where
  fiq : Psr
  irq : Psr
  svc : Psr
  abt : Psr
  und : Psr
deriving DecidableEq, Repr, Inhabited

/-- The CPU context (R40): what an entry function reads and writes. -/
structure Context where
  regs : RegFile
  cpsr : Psr
  spsr : SpsrFile
deriving DecidableEq, Repr, Inhabited

/-- What an entry function leaves (R407, R433, R436): the CPU context, and the value it wrote to pc, if it wrote pc. -/
structure Entered where
  context : Context
  pc : Option Word
deriving DecidableEq, Repr, Inhabited

/-- The widths of a data access: 1, 2, 4 and 8 bytes (R60, R67). -/
inductive Width
  | byte
  | half
  | word
  | dword
deriving DecidableEq, Repr

/-- What the memory collaborator is asked (R60): a read of a width, or a write of a width, whose value is the low bits of the
word. A fetch is a read of a word (R64), a doubleword is two words (R63). -/
inductive Access
  | read (n : Width) (a : Word)
  | write (n : Width) (a v : Word)
deriving DecidableEq, Repr

/-- The interrupts a caller can deliver (R436). -/
inductive InterruptKind
  | irq
  | fiq
deriving DecidableEq, Repr

end Sys2Proof.Machine

namespace Sys2Proof

/-- Free value (log 18): `ctx.undefEntry(w, A)` of R433, for the parameter value `EntryPolicy.given`. -/
opaque Config.undefEntry : Machine.Context → Word → Word → Machine.Entered

/-- Free value (log 18): `ctx.swiEntry(comment, A)` of R433, for the parameter value `EntryPolicy.given`. -/
opaque Config.swiEntry : Machine.Context → BitVec 24 → Word → Machine.Entered

/-- Free value (log 18): `interruptEntry(kind, nextAddr)` of R436, for the parameter value `EntryPolicy.given`. -/
opaque Config.interruptEntry : Machine.Context → Machine.InterruptKind → Word → Machine.Entered

/-- Free value (log 20): the registers that each mode code has, for the parameter value `ContextPolicy.given`. Register `i` is
the cell that the rearrangement puts in the place of `usr i`, so no two numbers of a mode are one cell. -/
opaque Config.ctxBanks : BitVec 5 → Equiv.Perm Machine.RegCell

/-- Free value (log 20): the SPSR that each mode code has, if any, for the parameter value `ContextPolicy.given`. -/
opaque Config.ctxSpsr : BitVec 5 → Option Machine.ExcMode

/-- Free value (log 20): the CPSR bits that MSR may change under each mode code, beside the flags, for the parameter value
`ContextPolicy.given`. -/
opaque Config.ctxCpsrBits : BitVec 5 → Word

/-- Free value (log 20): the SPSR bits that MSR may change under each mode code, for the parameter value
`ContextPolicy.given`. -/
opaque Config.ctxSpsrBits : BitVec 5 → Word

/-- Free value (log 21): what the memory of the parameter value `MemPolicy.given` answers to the first access of the list, which
the others were made before, the latest first. -/
opaque Config.memAnswer : List Machine.Access → Word

end Sys2Proof

namespace Sys2Proof.Machine

/-- Memory: address and byte pairs in the canonical form of `Memory.wf`. An address that is not listed reads as
`unlistedByte`. -/
abbrev Memory := List Host.Cell

/-- The machine. -/
structure State where
  /-- r0..r14 of every bank. -/
  regs : RegFile
  /-- r15, the program counter: the fetch address (R33, R43). -/
  pc : Word
  /-- The current program status register. -/
  cpsr : Psr
  /-- The saved program status registers. -/
  spsr : SpsrFile
  /-- The pipeline window's fetch slot (R31). -/
  fetchSlot : Word
  /-- The pipeline window's decode slot (R31). -/
  decodeSlot : Word
  /-- The pipeline window's execute slot (R31). -/
  executeSlot : Word
  /-- The invalidation counter (R32). -/
  counter : BitVec 2
  /-- The default memory (R65). -/
  mem : Memory
  /-- The model's own: the accesses that a memory other than the default has been asked, the latest first (log 21). -/
  bus : List Access
  /-- The model's own: how many free values have been drawn (R281, R366). -/
  draws : Nat
  /-- The model's own: the parameters of R9, which no step changes. -/
  params : Params
deriving DecidableEq, Repr

/-- The reasons of `Unpredictable(reason)` (R431). -/
inductive UnpredReason
  | rsPC
  | pcInRegShift
  | postIndexWriteBack
  | writeBackPC
  | offsetPC
  | spsrAccessNoSPSR
  | mulOperands
  | loadWriteBackBase
  | storeWriteBackBase
  | transferPC
  | doubleRegPair
  | swapPC
  | swapBase
  | bxMisaligned
  | msrThumbBit
  | emptyList
  | basePC
  | userBankWriteBack
  | storeBaseNotFirst
  | loadBaseInList
deriving DecidableEq, Repr

/-- Why the machine halts (R409, R430). Those a step raises carry the executing address. All are safe: the spec gives the
halt, under the parameter that asks for it. -/
inductive Fault
  /-- `Unpredictable(reason)`: a handler, under UNPRED = Fault (R431). Safe. -/
  | unpredictable (reason : UnpredReason) (at_ : Word)
  /-- `MisalignedAccess(addr, n)`: a transfer, under misalign = Fault (R68). Safe. -/
  | misalignedAccess (addr : Word) (n : Width) (at_ : Word)
  /-- `Trap(UndefinedInstruction, w)`: UNDEFINED, with no undefEntry (R407, R433). Safe. -/
  | undefinedInstruction (w : Word) (at_ : Word)
  /-- `Trap(SoftwareInterrupt, comment)`: SWI, with no swiEntry (R407, R433). Safe. -/
  | softwareInterrupt (comment : BitVec 24) (at_ : Word)
  /-- An interrupt delivered between steps, with no interruptEntry (R9, R436): "a standalone model stops with a trap
  outcome". It carries `NextAddr()` (R415). No step raises it. Safe. -/
  | interrupt (kind : InterruptKind) (next : Word)
deriving DecidableEq, Repr

/-- Why a step has no meaning. -/
inductive Refusal
  /-- The step, while CPSR.T = 1: THUMB decoding is outside the block (R6), and "a model may refuse the call" (R416). Safe. -/
  | thumbState
  /-- An arm of `exec` whose instruction has no meaning in this model; no arm uses it. Safe. -/
  | notModelled (mnemonic : String)
deriving DecidableEq, Repr

/-- The outcome of a handler or of a step. -/
abbrev Outcome := Host.Outcome State Fault Refusal

/-- The PSR that a word is (R37). -/
def Psr.ofWord (w : Word) : Psr :=
  ⟨w.getLsbD 31, w.getLsbD 30, w.getLsbD 29, w.getLsbD 28, w.extractLsb' 0 28⟩

/-- What the spec leaves to the launch (R44, R65, R464): the parameters, the CPU context and the contents of memory. -/
structure Launch where
  params : Params
  regs : RegFile
  cpsr : Psr
  spsr : SpsrFile
  mem : Memory
deriving DecidableEq, Repr

/-- The machine right after reset (R44, R460, R464), for any launch: the counter is 3, the slots are 0, pc is resetPC with
bits 1:0 cleared (a PC write, R34), and the CPU context and memory hold their launch values. -/
def State.boot (l : Launch) : State :=
  { regs := l.regs
    pc := l.params.resetPC &&& 0xFFFFFFFC
    cpsr := l.cpsr
    spsr := l.spsr
    fetchSlot := 0
    decodeSlot := 0
    executeSlot := 0
    counter := 3
    mem := l.mem
    bus := []
    draws := 0
    params := l.params }

/-- The launch that this model names (log 1, 2, 3): the values of Launch.lean. -/
def launch : Launch :=
  { params := launchParams
    regs :=
      { usr := Vector.replicate 15 launchReg
        fiq := Vector.replicate 7 launchReg
        irq := Vector.replicate 2 launchReg
        svc := Vector.replicate 2 launchReg
        abt := Vector.replicate 2 launchReg
        und := Vector.replicate 2 launchReg }
    cpsr := ⟨launchFlag, launchFlag, launchFlag, launchFlag, launchCpsrRest⟩
    spsr :=
      { fiq := Psr.ofWord launchSpsr
        irq := Psr.ofWord launchSpsr
        svc := Psr.ofWord launchSpsr
        abt := Psr.ofWord launchSpsr
        und := Psr.ofWord launchSpsr }
    mem := [] }

/-- The machine right after reset, for the launch that this model names. -/
def State.reset : State := State.boot launch

end Sys2Proof.Machine
end

