-- ==== Sys2Proof/Machine/Ops.lean ====
section
/-! DEFINITION. The named operations over memory (spec/20_memory.md), registers and status registers (spec/10_state.md), and
what every handler shares: the checks before any write, taking an exception and returning from one (spec/60_exceptions.md). -/

namespace Sys2Proof.Machine

/-! ### The default memory (R65) -/

/-- The canonical form: addresses strictly rising and below 2^32, and no entry equal to what an unlisted address reads as. -/
abbrev Memory.wf (m : Memory) : Prop :=
  m.Pairwise (fun x y => x.1 < y.1) ∧ ∀ x ∈ m, x.2 ≠ unlistedByte ∧ x.1 < 2 ^ 32

/-- The byte at an address (R65). -/
def Memory.read : Memory → Nat → Byte
  | [], _ => unlistedByte
  | (k, v) :: rest, a => if a = k then v else Memory.read rest a

/-- `m` with the byte `b` in front, unless `b` is what an unlisted address reads as. -/
def Memory.cons (a : Nat) (b : Byte) (m : Memory) : Memory := if b = unlistedByte then m else (a, b) :: m

/-- Memory with one byte written (R65); the canonical form is kept. -/
def Memory.write : Memory → Nat → Byte → Memory
  | [], a, b => Memory.cons a b []
  | (k, v) :: rest, a, b =>
    if a < k then Memory.cons a b ((k, v) :: rest)
    else if a = k then Memory.cons a b rest
    else (k, v) :: Memory.write rest a b

/-- The byte at an address. -/
def Memory.read8 (m : Memory) (a : Word) : Byte := m.read a.toNat

/-- The halfword at an address, little-endian (R64). -/
def Memory.read16 (m : Memory) (a : Word) : BitVec 16 := m.read8 (a + 1) ++ m.read8 a

/-- The word at an address, little-endian (R64). -/
def Memory.read32 (m : Memory) (a : Word) : Word := m.read8 (a + 3) ++ m.read8 (a + 2) ++ m.read8 (a + 1) ++ m.read8 a

/-- The doubleword at an address: the word at the lower address is the low half (R63). -/
def Memory.read64 (m : Memory) (a : Word) : BitVec 64 := m.read32 (a + 4) ++ m.read32 a

/-- Memory with a byte written. -/
def Memory.write8 (m : Memory) (a : Word) (v : Byte) : Memory := m.write a.toNat v

/-- Memory with a halfword written, little-endian (R64). -/
def Memory.write16 (m : Memory) (a : Word) (v : BitVec 16) : Memory :=
  (m.write8 a (v.extractLsb' 0 8)).write8 (a + 1) (v.extractLsb' 8 8)

/-- Memory with a word written, little-endian (R64). -/
def Memory.write32 (m : Memory) (a : Word) (v : Word) : Memory :=
  (((m.write8 a (v.extractLsb' 0 8)).write8 (a + 1) (v.extractLsb' 8 8)).write8 (a + 2) (v.extractLsb' 16 8)).write8 (a + 3)
    (v.extractLsb' 24 8)

/-- Memory with a doubleword written (R63). -/
def Memory.write64 (m : Memory) (a : Word) (v : BitVec 64) : Memory :=
  (m.write32 a (v.extractLsb' 0 32)).write32 (a + 4) (v.extractLsb' 32 32)

/-- The words at `a`, `a + 4`, ..., one for each of `n` registers (R371). -/
def Memory.readWords (m : Memory) (a : Word) : Nat → List Word
  | 0 => []
  | n + 1 => m.read32 a :: Memory.readWords m (a + 4) n

/-- Memory with the words written at `a`, `a + 4`, ... in turn (R370). -/
def Memory.writeWords (m : Memory) (a : Word) : List Word → Memory
  | [] => m
  | v :: vs => Memory.writeWords (m.write32 a v) (a + 4) vs

/-- The number of bytes of a width. -/
def Width.bytes : Width → Nat
  | .byte => 1
  | .half => 2
  | .word => 4
  | .dword => 8

/-- The address does not meet the width's natural alignment (R67); a doubleword needs word alignment (D27). -/
def misaligned (n : Width) (a : Word) : Bool :=
  match n with
  | .byte => false
  | .half => a.getLsbD 0
  | .word | .dword => a.extractLsb' 0 2 != 0

/-- `a & ~1`. -/
def alignHalf (a : Word) : Word := a &&& 0xFFFFFFFE

/-- `a & ~3`. -/
def alignWord (a : Word) : Word := a &&& 0xFFFFFFFC

/-- `ROR(v, n)` (R11). -/
def ror (v : Word) (n : Nat) : Word := v.rotateRight n

/-! ### The memory collaborator (R60)

With the default memory the accesses go to `State.mem`; with another, they are recorded, and it answers. -/

/-- `bus` if the memory is another than the default, else the accesses recorded before. -/
def State.busAs (s : State) (bus : List Access) : List Access :=
  match s.params.mem with
  | .flat => s.bus
  | .given => bus

/-- `m` if the memory is the default, else what the default memory held before. -/
def State.memAs (s : State) (m : Memory) : Memory :=
  match s.params.mem with
  | .flat => m
  | .given => s.mem

/-- The state after an access that reads: the default memory has no side effects (R65). -/
def State.ask (s : State) (x : Access) : State := { s with bus := s.busAs (x :: s.bus) }

/-- The state after an access that writes; `m` is what it leaves of the default memory. -/
def State.put (s : State) (x : Access) (m : Memory) : State := { s with mem := s.memAs m, bus := s.busAs (x :: s.bus) }

/-- The answer of a memory other than the default to an access. -/
def State.answer (s : State) (x : Access) : Word := Config.memAnswer (x :: s.bus)

/-- `MemRead(a, 1)` (R60). -/
def State.load8 (s : State) (a : Word) : Byte :=
  match s.params.mem with
  | .flat => s.mem.read8 a
  | .given => (s.answer (.read .byte a)).setWidth 8

/-- `MemRead(a, 2)` (R60). -/
def State.load16 (s : State) (a : Word) : BitVec 16 :=
  match s.params.mem with
  | .flat => s.mem.read16 a
  | .given => (s.answer (.read .half a)).setWidth 16

/-- `MemRead(a, 4)` (R60). -/
def State.load32 (s : State) (a : Word) : Word :=
  match s.params.mem with
  | .flat => s.mem.read32 a
  | .given => s.answer (.read .word a)

/-- `MemRead(a, 8)`: two words (R63). Another memory is asked the lower one first (log 21). -/
def State.load64 (s : State) (a : Word) : BitVec 64 :=
  match s.params.mem with
  | .flat => s.mem.read64 a
  | .given => (s.ask (.read .word a)).load32 (a + 4) ++ s.load32 a

/-- The state after `MemRead(a, 8)`. -/
def State.ask64 (s : State) (a : Word) : State := (s.ask (.read .word a)).ask (.read .word (a + 4))

/-- `MemWrite(a, 1, v)` (R60). -/
def State.store8 (s : State) (a : Word) (v : Byte) : State :=
  s.put (.write .byte a (v.setWidth 32)) (s.mem.write8 a v)

/-- `MemWrite(a, 2, v)` (R60). -/
def State.store16 (s : State) (a : Word) (v : BitVec 16) : State :=
  s.put (.write .half a (v.setWidth 32)) (s.mem.write16 a v)

/-- `MemWrite(a, 4, v)` (R60). -/
def State.store32 (s : State) (a v : Word) : State := s.put (.write .word a v) (s.mem.write32 a v)

/-- `MemWrite(a, 8, v)`: the low word, then the high word (R63). -/
def State.store64 (s : State) (a : Word) (v : BitVec 64) : State :=
  { s with
    mem := s.memAs (s.mem.write64 a v)
    bus := s.busAs (.write .word (a + 4) (v.extractLsb' 32 32) :: .write .word a (v.extractLsb' 0 32) :: s.bus) }

/-- The accesses after `n` reads of words, at `a`, `a + 4`, ... in turn (R371). -/
def wordReads (bus : List Access) (a : Word) (n : Nat) : List Access :=
  ((List.range n).map (fun k => Access.read .word (a + 4 * BitVec.ofNat 32 k))).reverse ++ bus

/-- The accesses after writes of words, at `a`, `a + 4`, ... in turn (R370). -/
def wordWrites (bus : List Access) (a : Word) (vs : List Word) : List Access :=
  (vs.mapIdx (fun k v => Access.write .word (a + 4 * BitVec.ofNat 32 k) v)).reverse ++ bus

/-- The words read at `a`, `a + 4`, ... in turn, one for each of `n` registers (R371). -/
def State.loadWords (s : State) (a : Word) (n : Nat) : List Word :=
  match s.params.mem with
  | .flat => s.mem.readWords a n
  | .given => (List.range n).map (fun k => Config.memAnswer (wordReads s.bus a (k + 1)))

/-- The state after those reads. -/
def State.askWords (s : State) (a : Word) (n : Nat) : State := { s with bus := s.busAs (wordReads s.bus a n) }

/-- The state after the words are written at `a`, `a + 4`, ... in turn (R370). -/
def State.storeWords (s : State) (a : Word) (vs : List Word) : State :=
  { s with mem := s.memAs (s.mem.writeWords a vs), bus := s.busAs (wordWrites s.bus a vs) }

/-! ### Status registers -/

/-- The word of a PSR (R37). -/
def Psr.toWord (p : Psr) : Word := bit p.n ++ bit p.z ++ bit p.c ++ bit p.v ++ p.rest

/-- CPSR[4:0] (R37). -/
def Psr.modeCode (p : Psr) : BitVec 5 := p.rest.extractLsb' 0 5

/-- CPSR.T (R37). -/
def Psr.t (p : Psr) : Bool := p.rest.getLsbD 5

/-- CPSR.F (R37). -/
def Psr.f (p : Psr) : Bool := p.rest.getLsbD 6

/-- CPSR.I (R37). -/
def Psr.i (p : Psr) : Bool := p.rest.getLsbD 7

/-- A PSR with another T bit. -/
def Psr.withT (p : Psr) (t : Bool) : Psr :=
  { p with rest := p.rest.extractLsb' 6 22 ++ bit t ++ p.rest.extractLsb' 0 5 }

/-- The mode of a mode code (R440). A code that R440 does not list acts as a listed mode that nothing fixes (log 5). -/
def Mode.ofCode (b : BitVec 5) : Mode :=
  match b.toNat with
  | 0x10 => .usr
  | 0x11 => .fiq
  | 0x12 => .irq
  | 0x13 => .svc
  | 0x17 => .abt
  | 0x1B => .und
  | 0x1F => .sys
  | _ => Config.unlistedMode b

/-- The mode code of a mode an exception enters (R440). -/
def ExcMode.code : ExcMode → BitVec 5
  | .fiq => 0x11
  | .irq => 0x12
  | .svc => 0x13
  | .abt => 0x17
  | .und => 0x1B

/-- The exception mode that a mode is: its SPSR and its banked registers are that mode's (R440). -/
def Mode.exc? : Mode → Option ExcMode
  | .usr => none
  | .fiq => some .fiq
  | .irq => some .irq
  | .svc => some .svc
  | .abt => some .abt
  | .und => some .und
  | .sys => none

/-- The current mode, of R440. -/
def State.mode (s : State) : Mode := Mode.ofCode s.cpsr.modeCode

/-- `ctx.thumbBit()` (R40). -/
def State.thumb (s : State) : Bool := s.cpsr.t

/-- The SPSR of an exception mode. -/
def SpsrFile.get (p : SpsrFile) : ExcMode → Psr
  | .fiq => p.fiq
  | .irq => p.irq
  | .svc => p.svc
  | .abt => p.abt
  | .und => p.und

/-- The SPSRs with that of one exception mode written. -/
def SpsrFile.set (p : SpsrFile) (m : ExcMode) (v : Psr) : SpsrFile :=
  match m with
  | .fiq => { p with fiq := v }
  | .irq => { p with irq := v }
  | .svc => { p with svc := v }
  | .abt => { p with abt := v }
  | .und => { p with und := v }

/-- r13 and r14 of a mode that banks those two only. -/
def bankedPair (bank : Fin 2 → RegCell) (i : Fin 15) : RegCell :=
  if i.val = 13 then bank 0 else if i.val = 14 then bank 1 else .usr i

/-- Which physical register `ri` is in a mode (R440). -/
def home (m : Mode) (i : Fin 15) : RegCell :=
  match m with
  | .usr | .sys => .usr i
  | .fiq => if h : 8 ≤ i.val then .fiq ⟨i.val - 8, by omega⟩ else .usr i
  | .irq => bankedPair .irq i
  | .svc => bankedPair .svc i
  | .abt => bankedPair .abt i
  | .und => bankedPair .und i

/-- Which physical register `ri` is under a mode code, in a CPU context (R40, R440). -/
def cellIn (ctx : ContextPolicy) (code : BitVec 5) (i : Fin 15) : RegCell :=
  match ctx with
  | .reference => home (Mode.ofCode code) i
  | .given => Config.ctxBanks code (.usr i)

/-- The physical register that `ctx.readReg(i)` and `ctx.writeReg(i, v)` reach (R40). -/
def State.cellOf (s : State) (i : Fin 15) : RegCell := cellIn s.params.ctx s.cpsr.modeCode i

/-- The physical register that `ctx.readUserReg(i)` and `ctx.writeUserReg(i, v)` reach (R40). -/
def State.userCellOf (s : State) (i : Fin 15) : RegCell := cellIn s.params.ctx 0x10 i

/-- Whose SPSR a mode code has, if it has one, in a CPU context (R40, R440). -/
def spsrIn (ctx : ContextPolicy) (code : BitVec 5) : Option ExcMode :=
  match ctx with
  | .reference => (Mode.ofCode code).exc?
  | .given => Config.ctxSpsr code

/-- Whose SPSR the current mode has, if it has one. -/
def State.exc? (s : State) : Option ExcMode := spsrIn s.params.ctx s.cpsr.modeCode

/-- The SPSR of the current mode, if it has one: `ctx.hasSPSR` and `ctx.readPSR(SPSR)` (R40). -/
def State.currentSpsr (s : State) : Option Psr := s.exc?.map s.spsr.get

/-- `ctx.hasSPSR()` (R40). -/
def State.hasSpsr (s : State) : Bool := s.currentSpsr.isSome

/-- The bits a field mask selects: f 31:24, s 23:16, x 15:8, c 7:0 (R40, R365). -/
def fieldBits (mask : BitVec 4) : Word :=
  (bif mask.getLsbD 3 then 0xFF000000 else 0) ||| (bif mask.getLsbD 2 then 0x00FF0000 else 0)
    ||| (bif mask.getLsbD 1 then 0x0000FF00 else 0) ||| (bif mask.getLsbD 0 then 0x000000FF else 0)

/-- The CPSR bits that `ctx.writePSR` of the reference context lets a mode change (R367, R441): always the flags, in User mode
never bits 7:0; the rest is the parameter (log 6). -/
def writableBits (p : Params) (m : Mode) : Word :=
  match m with
  | .usr => (p.userPsrBits &&& 0x0FFFFF00) ||| 0xF0000000
  | _ => p.privPsrBits ||| 0xF0000000

/-- The CPSR bits that `ctx.writePSR` lets the current mode change: always the flags (R40, R367). -/
def State.cpsrBits (s : State) : Word :=
  match s.params.ctx with
  | .reference => writableBits s.params s.mode
  | .given => Config.ctxCpsrBits s.cpsr.modeCode ||| 0xF0000000

/-- The SPSR bits that `ctx.writePSR` lets the current mode change (R40): all, in the reference context (log 6). -/
def State.spsrBits (s : State) : Word :=
  match s.params.ctx with
  | .reference => 0xFFFFFFFF
  | .given => Config.ctxSpsrBits s.cpsr.modeCode

/-- `old` with the bits of `bits` taken from `v`. -/
def mergeBits (old v bits : Word) : Word := (old &&& ~~~bits) ||| (v &&& bits)

/-- `ctx.writePSR(CPSR, mask, v)` (R40, R367). -/
def State.writeCpsr (s : State) (mask : BitVec 4) (v : Word) : State :=
  { s with cpsr := Psr.ofWord (mergeBits s.cpsr.toWord v (fieldBits mask &&& s.cpsrBits)) }

/-- `ctx.writePSR(SPSR, mask, v)` (R40), to the current mode's SPSR; nothing in a mode that has none (R367, Compute). -/
def State.writeSpsr (s : State) (mask : BitVec 4) (v : Word) : State :=
  match s.exc? with
  | some m =>
    { s with spsr := s.spsr.set m (Psr.ofWord (mergeBits (s.spsr.get m).toWord v (fieldBits mask &&& s.spsrBits))) }
  | none => s

/-! ### General registers -/

/-- The value of a physical register. -/
def RegFile.get (r : RegFile) : RegCell → Word
  | .usr i => r.usr[i]
  | .fiq i => r.fiq[i]
  | .irq i => r.irq[i]
  | .svc i => r.svc[i]
  | .abt i => r.abt[i]
  | .und i => r.und[i]

/-- The registers with one physical register written. -/
def RegFile.set (r : RegFile) (c : RegCell) (v : Word) : RegFile :=
  match c with
  | .usr i => { r with usr := r.usr.set i v }
  | .fiq i => { r with fiq := r.fiq.set i v }
  | .irq i => { r with irq := r.irq.set i v }
  | .svc i => { r with svc := r.svc.set i v }
  | .abt i => { r with abt := r.abt.set i v }
  | .und i => { r with und := r.und.set i v }

/-- `x[i]` (R12, R33): register i of the current mode, or pc. -/
def State.reg (s : State) (i : Reg) : Word :=
  if h : i.val < 15 then s.regs.get (s.cellOf ⟨i.val, h⟩) else s.pc

/-- A PC write (R34, R406): bits 1:0 are cleared, and the counter is 3, by which the step knows of it. -/
def State.writePc (s : State) (v : Word) : State := { s with pc := v &&& 0xFFFFFFFC, counter := 3 }

/-- `x[i] <- v` (R12, R34). -/
def State.setReg (s : State) (i : Reg) (v : Word) : State :=
  if h : i.val < 15 then { s with regs := s.regs.set (s.cellOf ⟨i.val, h⟩) v } else s.writePc v

/-- `ctx.readUserReg(i)` (R40); r15 has one copy. -/
def State.userReg (s : State) (i : Reg) : Word :=
  if h : i.val < 15 then s.regs.get (s.userCellOf ⟨i.val, h⟩) else s.pc

/-- `ctx.writeUserReg(i, v)` (R40); r15 has one copy. -/
def State.setUserReg (s : State) (i : Reg) (v : Word) : State :=
  if h : i.val < 15 then { s with regs := s.regs.set (s.userCellOf ⟨i.val, h⟩) v } else s.writePc v

/-- The value a store of register i writes: r15 gives `pc + pcStoreExtra` (R33). -/
def State.storeReg (s : State) (i : Reg) : Word :=
  if i = Reg.pc then s.pc + s.params.pcStoreExtra.bytes else s.reg i

/-- An operand of a register-shift form: r15 gives `pc + regShiftPcExtra` (R33, R179). -/
def State.shiftReg (s : State) (i : Reg) : Word :=
  if i = Reg.pc then s.pc + s.params.regShiftPcExtra.bytes else s.reg i

/-- The executing address A = pc - 8 (R402). -/
def State.execAddr (s : State) : Word := s.pc - 8

/-! ### The checks a handler makes before any write -/

/-- The first check that holds, in the order the handler's rule lists them (R438). -/
def firstReason (checks : List (UnpredReason × Bool)) : Option UnpredReason :=
  (checks.find? (fun p => p.2)).map (fun p => p.1)

/-- `raise Unpredictable(reason)` for the first check that holds, under UNPRED = Fault; else the handler goes on (R14, D15). -/
def guardUnpred (checks : List (UnpredReason × Bool)) (s : State) (k : Outcome) : Outcome :=
  match s.params.unpred, firstReason checks with
  | .fault, some r => .fault (.unpredictable r s.execAddr)
  | _, _ => k

/-- `raise MisalignedAccess(ea, n)` for a misaligned address, under misalign = Fault; else the handler goes on (R68). -/
def guardAligned (n : Width) (ea : Word) (s : State) (k : Outcome) : Outcome :=
  if s.params.misalign = .fault ∧ misaligned n ea = true then .fault (.misalignedAccess ea n s.execAddr) else k

/-! ### Exceptions -/

/-- The CPSR after an exception entry (R433, R436): the new mode, T = 0, I = 1, F = 1 if `disableFiq` and unchanged if not. -/
def Psr.entry (p : Psr) (m : ExcMode) (disableFiq : Bool) : Psr :=
  { p with rest := p.rest.extractLsb' 8 20 ++ 1#1 ++ bit (disableFiq || p.f) ++ 0#1 ++ m.code }

/-- The SPSRs after that of a mode code, if it has one, has saved CPSR. -/
def State.savedSpsr (s : State) (code : BitVec 5) : SpsrFile :=
  match spsrIn s.params.ctx code with
  | some m => s.spsr.set m s.cpsr
  | none => s.spsr

/-- The general registers after r14 of a mode code is written. -/
def State.linked (s : State) (code : BitVec 5) (link : Word) : RegFile := s.regs.set (cellIn s.params.ctx code 14) link

/-- Taking an exception (R433, R436): the SPSR of the new mode saves CPSR, r14 of the new mode is the link, CPSR is that of
`Psr.entry`, and pc is the vector, which is a PC write. -/
def takeException (m : ExcMode) (link vector : Word) (disableFiq : Bool) (s : State) : State :=
  State.writePc
    { s with
      spsr := s.savedSpsr m.code
      regs := s.linked m.code link
      cpsr := s.cpsr.entry m disableFiq }
    vector

/-- The CPU context of a state (R40). -/
def State.context (s : State) : Context := ⟨s.regs, s.cpsr, s.spsr⟩

/-- What an entry function left becomes the CPU context, and the pc it wrote, if any, is a PC write (R407, R433, R436). -/
def State.enter (s : State) (e : Entered) : State :=
  let t := { s with regs := e.context.regs, cpsr := e.context.cpsr, spsr := e.context.spsr }
  match e.pc with
  | some v => t.writePc v
  | none => t

/-- The hand-over to THUMB state at `t` (R408): the step sets the counter to 3 and the CPU context sets T = 1 and pc to
`t` with bit 0 cleared. -/
def State.exitThumb (s : State) (t : Word) : State :=
  { s with cpsr := s.cpsr.withT true, pc := t &&& 0xFFFFFFFE, counter := 3 }

/-- The exception return of R233 and R371: CPSR is restored from the SPSR of the current mode, and `v` is written to pc, or
handed to THUMB state if the restored T is 1. In a mode with no SPSR, `v` is written to pc only (Compute). -/
def returnFromException (v : Word) (s : State) : State :=
  match s.currentSpsr with
  | some p => if p.t then State.exitThumb { s with cpsr := p } v else State.writePc { s with cpsr := p } v
  | none => s.writePc v

/-- Processor reset as an event between steps (R460): the block's own state. The CPU context and memory keep what they hold,
which is their launch state (R464). -/
def applyReset (s : State) : State :=
  { s with
    counter := 3
    fetchSlot := 0
    decodeSlot := 0
    executeSlot := 0
    pc := s.params.resetPC &&& 0xFFFFFFFC }

end Sys2Proof.Machine
end

