-- ==== Sys2Proof/Machine/Operands.lean ====
section
/-! DEFINITION. The addressing-mode resolvers of spec/42_resolvers.md: shifter operands (R172-R183) and the addresses of modes
2, 3 and 4 (R184-R197). A resolver reads the registers and the C flag, and writes nothing (R170). -/

namespace Sys2Proof.Machine

/-- What a shifter resolver returns (R172). -/
structure Shifted where
  value : Word
  carry : Bool
deriving DecidableEq, Repr

/-- IMM_ROT (R173). -/
def rotatedImmediate (rot : BitVec 4) (imm8 : BitVec 8) (c : Bool) : Shifted :=
  let value := ror (imm8.setWidth 32) (2 * rot.toNat)
  ⟨value, if rot = 0 then c else value.msb⟩

/-- ShiftImm (R174). -/
def shiftByImmediate (t : ShiftType) (rm : Word) (amt : Nat) (c : Bool) : Shifted :=
  match t with
  | .lsl => if amt = 0 then ⟨rm, c⟩ else ⟨rm <<< amt, rm.getLsbD (32 - amt)⟩
  | .lsr => if amt = 0 then ⟨0, rm.msb⟩ else ⟨rm >>> amt, rm.getLsbD (amt - 1)⟩
  | .asr => if amt = 0 then ⟨if rm.msb then 0xFFFFFFFF else 0, rm.msb⟩ else ⟨rm.sshiftRight amt, rm.getLsbD (amt - 1)⟩
  | .ror => if amt = 0 then ⟨bit c ++ rm.extractLsb' 1 31, rm.getLsbD 0⟩ else ⟨ror rm amt, rm.getLsbD (amt - 1)⟩

/-- ShiftReg (R179). -/
def shiftByRegister (t : ShiftType) (rm : Word) (s : Nat) (c : Bool) : Shifted :=
  if s = 0 then ⟨rm, c⟩
  else
    match t with
    | .lsl => if s < 32 then ⟨rm <<< s, rm.getLsbD (32 - s)⟩ else if s = 32 then ⟨0, rm.getLsbD 0⟩ else ⟨0, false⟩
    | .lsr => if s < 32 then ⟨rm >>> s, rm.getLsbD (s - 1)⟩ else if s = 32 then ⟨0, rm.msb⟩ else ⟨0, false⟩
    | .asr =>
      if s < 32 then ⟨rm.sshiftRight s, rm.getLsbD (s - 1)⟩ else ⟨if rm.msb then 0xFFFFFFFF else 0, rm.msb⟩
    | .ror => if s % 32 = 0 then ⟨rm, rm.msb⟩ else ⟨ror rm (s % 32), rm.getLsbD (s % 32 - 1)⟩

/-- A shifter operand's value and carry-out (R173-R183). -/
def resolveShifter (o : ShifterOperand) (s : State) : Shifted :=
  match o with
  | .imm rot imm8 => rotatedImmediate rot imm8 s.cpsr.c
  | .shiftImm t amt m => shiftByImmediate t (s.reg m) amt.toNat s.cpsr.c
  | .shiftReg t rs m => shiftByRegister t (s.shiftReg m) ((s.shiftReg rs).extractLsb' 0 8).toNat s.cpsr.c

/-- The value of Rn beside a shifter operand: in a register-shift form, r15 gives `pc + regShiftPcExtra` (R179, R235). -/
def firstOperand (n : Reg) (o : ShifterOperand) (s : State) : Word :=
  match o with
  | .shiftReg _ _ _ => s.shiftReg n
  | _ => s.reg n

/-- The UNPRED cases of a register-shift form, where `used` are the other registers the handler reads or writes: RsPC
before PCinRegShift (R179). -/
def shifterChecks (used : List Reg) (o : ShifterOperand) : List (UnpredReason × Bool) :=
  match o with
  | .shiftReg _ rs m => [(.rsPC, rs == Reg.pc), (.pcInRegShift, (m :: used).contains Reg.pc)]
  | _ => []

/-- The operand of MSR: Rm, or the value of IMM_ROT with its carry discarded (R367). -/
def resolvePsrOperand (o : PsrOperand) (s : State) : Word :=
  match o with
  | .reg m => s.reg m
  | .imm rot imm8 => (rotatedImmediate rot imm8 s.cpsr.c).value

/-- What a memory resolver returns (R184). -/
structure EffAddr where
  addr : Word
  wbAddr : Word
  wb : Bool
deriving DecidableEq, Repr

/-- `U ? base + off : base - off` (R184). -/
def offsetAddr (up : Bool) (base off : Word) : Word := if up then base + off else base - off

/-- The value of a mode-2 offset (R190, R191). -/
def offset2Value (off : Offset2) (s : State) : Word :=
  match off with
  | .imm v => v.setWidth 32
  | .reg t amt m => (shiftByImmediate t (s.reg m) amt.toNat s.cpsr.c).value

/-- The M2 resolvers (R192-R194). -/
def resolveMode2 (a : Mode2) (s : State) : EffAddr :=
  let base := s.reg a.n
  let target := offsetAddr a.up base (offset2Value a.off s)
  match a.ix with
  | .offset => ⟨target, target, false⟩
  | .pre => ⟨target, target, true⟩
  | .post => ⟨base, target, true⟩

/-- The resolver of a T form: M2_PT (R194, R337). -/
def tMode2 (a : ModeT) : Mode2 := ⟨.post, a.up, a.n, a.off⟩

/-- The value of a mode-3 offset (R185). -/
def offset3Value (off : Offset3) (s : State) : Word :=
  match off with
  | .imm v => v.setWidth 32
  | .reg m => s.reg m

/-- The M3 resolvers (R186-R189); under Compute, PTW is as PT. -/
def resolveMode3 (a : Mode3) (s : State) : EffAddr :=
  let base := s.reg a.n
  let target := offsetAddr a.up base (offset3Value a.off s)
  match a.ix with
  | .offset => ⟨target, target, false⟩
  | .pre => ⟨target, target, true⟩
  | .post | .postW => ⟨base, target, true⟩

/-- The sixteen register numbers, ascending. -/
def allRegs : List Reg := [0, 1, 2, 3, 4, 5, 6, 7, 8, 9, 10, 11, 12, 13, 14, 15]

/-- The registers of a list, ascending (R196). -/
def listRegs (list : BitVec 16) : List Reg := allRegs.filter (fun i => list.getLsbD i.val)

/-- The registers a block transfer moves: those of its list; for the empty list, r15 alone (R369, Compute). -/
def blockRegs (a : Mode4) : List Reg := if a.list = 0 then [Reg.pc] else listRegs a.list

/-- The bytes by which a block transfer moves the base: 4k (R197); for the empty list, 0x40 (R369, Compute). -/
def blockSize (a : Mode4) : Word := if a.list = 0 then 0x40 else 4 * BitVec.ofNat 32 (listRegs a.list).length

/-- The first address of a block transfer (R197, R369). -/
def blockStart (a : Mode4) (base : Word) : Word :=
  match a.up, a.before with
  | true, false => base
  | true, true => base + 4
  | false, false => base - blockSize a + 4
  | false, true => base - blockSize a

/-- The write-back value of a block transfer (R197, R369). -/
def blockWbAddr (a : Mode4) (base : Word) : Word := if a.up then base + blockSize a else base - blockSize a

end Sys2Proof.Machine
end

