-- ==== Sys2Proof/Machine/BlockTransfer.lean ====
section
/-! DEFINITION. The block transfers (spec/47_branch_system.md R369-R371). -/

namespace Sys2Proof.Machine

/-- r15 is in the list. -/
def listHasPc (a : Mode4) : Bool := a.list.getLsbD 15

/-- The UNPRED cases of STM: those of R369 in its order, then StoreBaseNotFirst of R370. That StoreBaseNotFirst comes last, where a
case of R369 holds too, is the model's choice (DESIGN CHOICE, unsafe in the reason's name only, log 22). -/
def stmChecks (a : Mode4) : List (UnpredReason × Bool) :=
  [ (.emptyList, a.list == 0)
  , (.basePC, a.n == Reg.pc)
  , (.userBankWriteBack, a.s && a.w)
  , (.storeBaseNotFirst, a.w && (listRegs a.list).contains a.n && (listRegs a.list).head? != some a.n) ]

/-- The UNPRED cases of LDM: those of R369 in its order, then LoadBaseInList of R371. That LoadBaseInList comes last, where a case of
R369 holds too, is the model's choice: R371's pseudocode names it before the case of no SPSR (DESIGN CHOICE, unsafe in the reason's
name only, log 22). -/
def ldmChecks (a : Mode4) (s : State) : List (UnpredReason × Bool) :=
  [ (.emptyList, a.list == 0)
  , (.basePC, a.n == Reg.pc)
  , (.userBankWriteBack, a.s && a.w && !listHasPc a)
  , (.spsrAccessNoSPSR, a.s && listHasPc a && !s.hasSpsr)
  , (.loadBaseInList, a.w && (listRegs a.list).contains a.n) ]

/-- The value that STM stores for a register of its list (R370). -/
def storedValue (a : Mode4) (wbAddr : Word) (s : State) (i : Reg) : Word :=
  if i = Reg.pc then s.storeReg i
  else if a.s then s.userReg i
  else if i = a.n && a.w && (blockRegs a).head? != some i then wbAddr
  else s.reg i

/-- `if W == 1: x[n] <- wbAddr` (R370, R371). -/
def blockWriteBack (a : Mode4) (wbAddr : Word) (s : State) : State := if a.w then s.setReg a.n wbAddr else s

/-- STM (R370): the stores, then the write-back. -/
def execStm (a : Mode4) (s : State) : Outcome :=
  let base := s.reg a.n
  let start := blockStart a base
  let wbAddr := blockWbAddr a base
  guardUnpred (stmChecks a) s
    (guardAligned .word start s
      (.next (blockWriteBack a wbAddr
        (s.storeWords (alignWord start) ((blockRegs a).map (storedValue a wbAddr s))))))

/-- One register of LDM gets its value (R371): r15 by a PC write, or, when S = 1, by the exception return; another register in
the User bank when S = 1 and r15 is not in the list, else in the current bank. That the return, and so the restore of CPSR and its
flags, is made also where the list is empty and r15 alone is transferred is the model's choice: R36, R369 and R371 do not say it
(DEDUCED, unsafe, log 19). -/
def loadOne (a : Mode4) (s : State) (iv : Reg × Word) : State :=
  if iv.1 = Reg.pc then (if a.s then returnFromException iv.2 s else s.writePc iv.2)
  else if a.s && !listHasPc a then s.setUserReg iv.1 iv.2
  else s.setReg iv.1 iv.2

/-- LDM (R371): the reads, the write-back, then the registers in ascending order. -/
def execLdm (a : Mode4) (s : State) : Outcome :=
  let base := s.reg a.n
  let start := blockStart a base
  let regs := blockRegs a
  let vals := s.loadWords (alignWord start) regs.length
  guardUnpred (ldmChecks a s) s
    (guardAligned .word start s
      (.next ((regs.zip vals).foldl (loadOne a)
        (blockWriteBack a (blockWbAddr a base) (s.askWords (alignWord start) regs.length)))))

end Sys2Proof.Machine
end

