-- ==== Sys2Proof/Machine/Branch.lean ====
section
/-! DEFINITION. The branches (spec/47_branch_system.md R360-R364). -/

namespace Sys2Proof.Machine

/-- The branch target: `pc + sext_32(imm24 : 00)` (R361). -/
def branchTarget (imm24 : BitVec 24) (s : State) : Word := s.pc + (imm24 ++ 0#2).signExtend 32

/-- B (R362). -/
def execB (imm24 : BitVec 24) (s : State) : Outcome := .next (s.writePc (branchTarget imm24 s))

/-- BL (R363): the link is `pc - 4`. -/
def execBl (imm24 : BitVec 24) (s : State) : Outcome :=
  .next ((s.setReg Reg.lr (s.pc - 4)).writePc (branchTarget imm24 s))

/-- BX (R364): to THUMB state if bit 0 of the target is set, else a PC write. -/
def execBx (m : Reg) (s : State) : Outcome :=
  let t := s.reg m
  if t.getLsbD 0 then .next (s.exitThumb t)
  else guardUnpred [(.bxMisaligned, t.getLsbD 1)] s (.next (s.writePc t))

end Sys2Proof.Machine
end

