-- ==== Sys2Proof/Machine/Flags.lean ====
section
/-! DEFINITION. The condition evaluator (spec/40_condition.md R120) and every flag computation: add with carry (R231), the
flag commit of the data-processing handlers (R232) and of the multiplies (R281). -/

namespace Sys2Proof.Machine

/-- The condition evaluator (R120, R121): may the instruction execute? -/
def condPass (cond : Cond) (n z c v : Bool) : Bool :=
  match cond with
  | .eq => z
  | .ne => !z
  | .cs => c
  | .cc => !c
  | .mi => n
  | .pl => !n
  | .vs => v
  | .vc => !v
  | .hi => c && !z
  | .ls => !c || z
  | .ge => n == v
  | .lt => n != v
  | .gt => !z && n == v
  | .le => z || n != v
  | .al => true
  | .nv => false

/-- The condition of an instruction on the flags of a state (R122). -/
def State.passes (s : State) (cond : Cond) : Bool := condPass cond s.cpsr.n s.cpsr.z s.cpsr.c s.cpsr.v

/-- A result with the carry and the overflow a handler commits with it (R232). -/
structure AluResult where
  value : Word
  c : Bool
  v : Bool
deriving DecidableEq, Repr

/-- AddWithCarry (R231). -/
def addWithCarry (x y : Word) (cin : Bool) : AluResult :=
  let u : BitVec 33 := x.setWidth 33 + y.setWidth 33 + (bit cin).setWidth 33
  let result : Word := u.setWidth 32
  { value := result
    c := u.getLsbD 32
    v := x.msb == y.msb && result.msb != x.msb }

/-- The flag commit of R232. -/
def State.commitFlags (s : State) (r : AluResult) : State :=
  { s with cpsr := { s.cpsr with n := r.value.msb, z := r.value == 0, c := r.c, v := r.v } }

/-- The flags of MULS and MLAS (R281): N and Z of the result, C a free value, V unchanged. -/
def State.commitMul (s : State) (r : Word) : State :=
  { s with
    cpsr := { s.cpsr with n := r.msb, z := r == 0, c := Config.mulFlagC s.draws }
    draws := s.draws + 1 }

/-- The flags of the long multiplies with S (R281): N and Z of the 64-bit result, C and V free values. -/
def State.commitMulLong (s : State) (r : BitVec 64) : State :=
  { s with
    cpsr := { s.cpsr with n := r.msb, z := r == 0, c := Config.mulFlagC s.draws, v := Config.mulFlagV s.draws }
    draws := s.draws + 1 }

end Sys2Proof.Machine
end

