-- ==== Sys2Proof/Machine/DataProcessing.lean ====
section
/-! DEFINITION. The data-processing handlers (spec/43_data_processing.md R230-R255). -/

namespace Sys2Proof.Machine

/-- A data-processing operation: its result, carry and overflow, from `a` (Rn), `b` (the shifter operand), the C flag `cin`,
the shifter carry `sc` and the V flag `v`. A logical operation gives `sc` and `v` back (R232). -/
abbrev AluOp := (a b : Word) → (cin sc v : Bool) → AluResult

/-- The operation of AND (R240). -/
def aluAnd : AluOp := fun a b _ sc v => ⟨a &&& b, sc, v⟩

/-- The operation of EOR (R241). -/
def aluEor : AluOp := fun a b _ sc v => ⟨a ^^^ b, sc, v⟩

/-- The operation of SUB (R242). -/
def aluSub : AluOp := fun a b _ _ _ => addWithCarry a (~~~b) true

/-- The operation of RSB (R243). -/
def aluRsb : AluOp := fun a b _ _ _ => addWithCarry b (~~~a) true

/-- The operation of ADD (R244). -/
def aluAdd : AluOp := fun a b _ _ _ => addWithCarry a b false

/-- The operation of ADC (R245). -/
def aluAdc : AluOp := fun a b cin _ _ => addWithCarry a b cin

/-- The operation of SBC (R246). -/
def aluSbc : AluOp := fun a b cin _ _ => addWithCarry a (~~~b) cin

/-- The operation of RSC (R247). -/
def aluRsc : AluOp := fun a b cin _ _ => addWithCarry b (~~~a) cin

/-- The operation of ORR (R252). -/
def aluOrr : AluOp := fun a b _ sc v => ⟨a ||| b, sc, v⟩

/-- The operation of MOV (R253). -/
def aluMov : AluOp := fun _ b _ sc v => ⟨b, sc, v⟩

/-- The operation of BIC (R254). -/
def aluBic : AluOp := fun a b _ sc v => ⟨a &&& ~~~b, sc, v⟩

/-- The operation of MVN (R255). -/
def aluMvn : AluOp := fun _ b _ sc v => ⟨~~~b, sc, v⟩

/-- An operation on the operands of the state (R230): `n` is Rn where the operation has one. -/
def aluResult (op : AluOp) (n : Option Reg) (o : ShifterOperand) (s : State) : AluResult :=
  let b := resolveShifter o s
  let a := (n.map (fun n => firstOperand n o s)).getD 0
  op a b.value s.cpsr.c b.carry s.cpsr.v

/-- A handler with S = 0: Rd is written, r15 by a PC write, and no flag (R232, R234). -/
def dpPlain (op : AluOp) (n : Option Reg) (d : Reg) (o : ShifterOperand) (s : State) : Outcome :=
  guardUnpred (shifterChecks (n.toList ++ [d]) o) s (.next (s.setReg d (aluResult op n o s).value))

/-- A handler with S = 1: the flags are committed and Rd is written (R232); with d = 15 it is the exception return of R233.
The UNPRED cases of R179 are checked before that of R233 (R237, R238). -/
def dpFlags (op : AluOp) (n : Option Reg) (d : Reg) (o : ShifterOperand) (s : State) : Outcome :=
  guardUnpred
    (shifterChecks (n.toList ++ [d]) o ++ [(.spsrAccessNoSPSR, d == Reg.pc && !s.hasSpsr)]) s
    (if d = Reg.pc then .next (returnFromException (aluResult op n o s).value s)
     else .next ((s.commitFlags (aluResult op n o s)).setReg d (aluResult op n o s).value))

/-- TST, TEQ, CMP and CMN: the flags are committed and no register is written (R232, R236). -/
def dpCompare (op : AluOp) (n : Reg) (o : ShifterOperand) (s : State) : Outcome :=
  guardUnpred (shifterChecks [n] o) s (.next (s.commitFlags (aluResult op (some n) o s)))

/-- AND (R240). -/
def execAnd (n d : Reg) (o : ShifterOperand) (s : State) : Outcome := dpPlain aluAnd (some n) d o s

/-- ANDS (R240). -/
def execAnds (n d : Reg) (o : ShifterOperand) (s : State) : Outcome := dpFlags aluAnd (some n) d o s

/-- EOR (R241). -/
def execEor (n d : Reg) (o : ShifterOperand) (s : State) : Outcome := dpPlain aluEor (some n) d o s

/-- EORS (R241). -/
def execEors (n d : Reg) (o : ShifterOperand) (s : State) : Outcome := dpFlags aluEor (some n) d o s

/-- SUB (R242). -/
def execSub (n d : Reg) (o : ShifterOperand) (s : State) : Outcome := dpPlain aluSub (some n) d o s

/-- SUBS (R242). -/
def execSubs (n d : Reg) (o : ShifterOperand) (s : State) : Outcome := dpFlags aluSub (some n) d o s

/-- RSB (R243). -/
def execRsb (n d : Reg) (o : ShifterOperand) (s : State) : Outcome := dpPlain aluRsb (some n) d o s

/-- RSBS (R243). -/
def execRsbs (n d : Reg) (o : ShifterOperand) (s : State) : Outcome := dpFlags aluRsb (some n) d o s

/-- ADD (R244). -/
def execAdd (n d : Reg) (o : ShifterOperand) (s : State) : Outcome := dpPlain aluAdd (some n) d o s

/-- ADDS (R244). -/
def execAdds (n d : Reg) (o : ShifterOperand) (s : State) : Outcome := dpFlags aluAdd (some n) d o s

/-- ADC (R245). -/
def execAdc (n d : Reg) (o : ShifterOperand) (s : State) : Outcome := dpPlain aluAdc (some n) d o s

/-- ADCS (R245). -/
def execAdcs (n d : Reg) (o : ShifterOperand) (s : State) : Outcome := dpFlags aluAdc (some n) d o s

/-- SBC (R246). -/
def execSbc (n d : Reg) (o : ShifterOperand) (s : State) : Outcome := dpPlain aluSbc (some n) d o s

/-- SBCS (R246). -/
def execSbcs (n d : Reg) (o : ShifterOperand) (s : State) : Outcome := dpFlags aluSbc (some n) d o s

/-- RSC (R247). -/
def execRsc (n d : Reg) (o : ShifterOperand) (s : State) : Outcome := dpPlain aluRsc (some n) d o s

/-- RSCS (R247). -/
def execRscs (n d : Reg) (o : ShifterOperand) (s : State) : Outcome := dpFlags aluRsc (some n) d o s

/-- TST (R248). -/
def execTst (n : Reg) (o : ShifterOperand) (s : State) : Outcome := dpCompare aluAnd n o s

/-- TEQ (R249). -/
def execTeq (n : Reg) (o : ShifterOperand) (s : State) : Outcome := dpCompare aluEor n o s

/-- CMP (R250). -/
def execCmp (n : Reg) (o : ShifterOperand) (s : State) : Outcome := dpCompare aluSub n o s

/-- CMN (R251). -/
def execCmn (n : Reg) (o : ShifterOperand) (s : State) : Outcome := dpCompare aluAdd n o s

/-- ORR (R252). -/
def execOrr (n d : Reg) (o : ShifterOperand) (s : State) : Outcome := dpPlain aluOrr (some n) d o s

/-- ORRS (R252). -/
def execOrrs (n d : Reg) (o : ShifterOperand) (s : State) : Outcome := dpFlags aluOrr (some n) d o s

/-- MOV (R253). -/
def execMov (d : Reg) (o : ShifterOperand) (s : State) : Outcome := dpPlain aluMov none d o s

/-- MOVS (R253). -/
def execMovs (d : Reg) (o : ShifterOperand) (s : State) : Outcome := dpFlags aluMov none d o s

/-- BIC (R254). -/
def execBic (n d : Reg) (o : ShifterOperand) (s : State) : Outcome := dpPlain aluBic (some n) d o s

/-- BICS (R254). -/
def execBics (n d : Reg) (o : ShifterOperand) (s : State) : Outcome := dpFlags aluBic (some n) d o s

/-- MVN (R255). -/
def execMvn (d : Reg) (o : ShifterOperand) (s : State) : Outcome := dpPlain aluMvn none d o s

/-- MVNS (R255). -/
def execMvns (d : Reg) (o : ShifterOperand) (s : State) : Outcome := dpFlags aluMvn none d o s

end Sys2Proof.Machine
end

