-- ==== Sys2Proof/Machine/Transfer.lean ====
section
/-! DEFINITION. What the single, extended and swap handlers share: the order of effects of R301 and R331, the write-back, the
UNPRED cases both lists have, and the values loaded. -/

namespace Sys2Proof.Machine

/-- Step 3 of R301 and R331: `if wb: x[n] <- wbAddr`. -/
def State.writeBack (s : State) (n : Reg) (ea : EffAddr) : State := if ea.wb then s.setReg n ea.wbAddr else s

/-- The order of R301 and R331 for a transfer of width `w`: the checks, the access, which leaves the state `u`, the write-back,
then the destination writes `dest` of a load. -/
def transferWith (checks : List (UnpredReason × Bool)) (w : Width) (n : Reg) (ea : EffAddr) (u : State)
    (dest : State → State) (s : State) : Outcome :=
  guardUnpred checks s (guardAligned w ea.addr s (.next (dest (u.writeBack n ea))))

/-- A load of one register, of a value and from the access that reads it. -/
def loadWith (checks : List (UnpredReason × Bool)) (w : Width) (n d : Reg) (ea : EffAddr) (value : Word) (x : Access)
    (s : State) : Outcome :=
  transferWith checks w n ea (s.ask x) (fun t => t.setReg d value) s

/-- A store, after which the state is `u`. -/
def storeWith (checks : List (UnpredReason × Bool)) (w : Width) (n : Reg) (ea : EffAddr) (u : State) (s : State) : Outcome :=
  transferWith checks w n ea u id s

/-- The offset is register 15 (R302, R332, reason OffsetPC), mode 2. -/
def offset2IsPc (off : Offset2) : Bool :=
  match off with
  | .imm _ => false
  | .reg _ _ m => m == Reg.pc

/-- The offset is register 15 (R302, R332, reason OffsetPC), mode 3. -/
def offset3IsPc (off : Offset3) : Bool :=
  match off with
  | .imm _ => false
  | .reg m => m == Reg.pc

/-- `wb` of a mode-2 index form (R184). -/
def index2Wb (ix : Index2) : Bool :=
  match ix with
  | .offset => false
  | .pre | .post => true

/-- `wb` of a mode-3 index form (R184); PTW is as PT (R189). -/
def index3Wb (ix : Index3) : Bool :=
  match ix with
  | .offset => false
  | .pre | .post | .postW => true

/-- The word a load at `a` gives: at a misaligned address, the aligned word rotated (R333, R340). -/
def State.loadedWord (s : State) (a : Word) : Word := ror (s.load32 (alignWord a)) (8 * (a.extractLsb' 0 2).toNat)

/-- The zero-extended byte at `a` (R335, R341). -/
def State.loadedByte (s : State) (a : Word) : Word := (s.load8 a).setWidth 32

/-- The zero-extended halfword a load at `a` gives: at an odd address, rotated by 8 (R304). -/
def State.loadedHalf (s : State) (a : Word) : Word :=
  let h : Word := (s.load16 (alignHalf a)).setWidth 32
  if a.getLsbD 0 then ror h 8 else h

/-- The sign-extended byte at `a` (R305). -/
def State.loadedSignedByte (s : State) (a : Word) : Word := (s.load8 a).signExtend 32

/-- The sign-extended halfword at `a`; at an odd address, the sign-extended byte there (R306). -/
def State.loadedSignedHalf (s : State) (a : Word) : Word :=
  if a.getLsbD 0 then s.loadedSignedByte a else (s.load16 a).signExtend 32

/-- The access of a word load or swap at `a` (R68, R333). -/
def wordRead (a : Word) : Access := .read .word (alignWord a)

/-- The access of a byte load at `a` (R335). -/
def byteRead (a : Word) : Access := .read .byte a

/-- The access of LDRH at `a` (R68, R304). -/
def halfRead (a : Word) : Access := .read .half (alignHalf a)

/-- The access of LDRSH at `a`: a byte, at an odd address (R306). -/
def signedHalfRead (a : Word) : Access := if a.getLsbD 0 then .read .byte a else .read .half a

end Sys2Proof.Machine
end

