-- ==== Sys2Proof/Machine/ExtendedTransfer.lean ====
section
/-! DEFINITION. The halfword, signed and doubleword transfers (spec/45_extended_transfer.md R300-R308). -/

namespace Sys2Proof.Machine

/-- `d + 1`, mod 16 (R302). -/
def pairReg (d : Reg) : Reg := d + 1

/-- The UNPRED cases of R302, in its order. `base` is the reason and the test of the fourth or fifth line, without `wb`;
`dword` marks LDRD and STRD. A PTW form counts as `wb` (log 9). -/
def extendedChecks (reason : UnpredReason) (hitsBase dword : Bool) (d : Reg) (a : Mode3) : List (UnpredReason × Bool) :=
  [ (.writeBackPC, index3Wb a.ix && a.n == Reg.pc)
  , (.postIndexWriteBack, a.ix == .postW)
  , (.offsetPC, offset3IsPc a.off)
  , (reason, index3Wb a.ix && hitsBase)
  , (.transferPC, d == Reg.pc)
  , (.doubleRegPair, dword && d.val % 2 == 1 || dword && d == 14) ]

/-- A load of one register (R301), of the value `v` and from the access `x` of the address. -/
def loadExtended (w : Width) (v : State → Word → Word) (x : Word → Access) (d : Reg) (a : Mode3) (s : State) : Outcome :=
  let ea := resolveMode3 a s
  loadWith (extendedChecks .loadWriteBackBase (a.n == d) false d a) w a.n d ea (v s ea.addr) (x ea.addr) s

/-- LDRH (R304). -/
def execLdrh (d : Reg) (a : Mode3) (s : State) : Outcome := loadExtended .half State.loadedHalf halfRead d a s

/-- LDRSB (R305). -/
def execLdrsb (d : Reg) (a : Mode3) (s : State) : Outcome := loadExtended .byte State.loadedSignedByte byteRead d a s

/-- LDRSH (R306). -/
def execLdrsh (d : Reg) (a : Mode3) (s : State) : Outcome := 
  loadExtended .half State.loadedSignedHalf signedHalfRead d a s

/-- STRH (R303). -/
def execStrh (d : Reg) (a : Mode3) (s : State) : Outcome :=
  let ea := resolveMode3 a s
  storeWith (extendedChecks .storeWriteBackBase (a.n == d) false d a) .half a.n ea
    (s.store16 (alignHalf ea.addr) ((s.storeReg d).extractLsb' 0 16)) s

/-- LDRD (R307): the write-back, then `x[d]`, then `x[d+1]`. -/
def execLdrd (d : Reg) (a : Mode3) (s : State) : Outcome :=
  let ea := resolveMode3 a s
  let v := s.load64 (alignWord ea.addr)
  transferWith (extendedChecks .loadWriteBackBase (a.n == d || a.n == pairReg d) true d a) .dword a.n ea
    (s.ask64 (alignWord ea.addr)) (fun t => (t.setReg d (v.extractLsb' 0 32)).setReg (pairReg d) (v.extractLsb' 32 32)) s

/-- STRD (R308): `x[d+1] : x[d]`. -/
def execStrd (d : Reg) (a : Mode3) (s : State) : Outcome :=
  let ea := resolveMode3 a s
  storeWith (extendedChecks .storeWriteBackBase (a.n == d) true d a) .dword a.n ea
    (s.store64 (alignWord ea.addr) (s.storeReg (pairReg d) ++ s.storeReg d)) s

end Sys2Proof.Machine
end

