-- ==== Sys2Proof/Machine/Multiply.lean ====
section
/-! DEFINITION. The multiply handlers (spec/44_multiply.md R280-R288). -/

namespace Sys2Proof.Machine

/-- The UNPRED operand choices of MUL and MLA (R288): `regs` are d, m, s and, for MLA, acc. -/
def mulChecks (regs : List Reg) (d m : Reg) : List (UnpredReason × Bool) :=
  [(.mulOperands, regs.contains Reg.pc || d == m)]

/-- The UNPRED operand choices of the long forms (R288). -/
def mulLongChecks (dLo dHi m s : Reg) : List (UnpredReason × Bool) :=
  [(.mulOperands, [dHi, dLo, m, s].contains Reg.pc || dHi == dLo || dHi == m || dLo == m)]

/-- `x[dHi] : x[dLo]` (R280). -/
def accumulator (dLo dHi : Reg) (s : State) : BitVec 64 := s.reg dHi ++ s.reg dLo

/-- `zext_64(x[m]) * zext_64(x[s])` (R284). -/
def unsignedProduct (m rs : Reg) (s : State) : BitVec 64 := (s.reg m).setWidth 64 * (s.reg rs).setWidth 64

/-- `sext_64(x[m]) * sext_64(x[s])`, its low 64 bits (R286). -/
def signedProduct (m rs : Reg) (s : State) : BitVec 64 := (s.reg m).signExtend 64 * (s.reg rs).signExtend 64

/-- A 64-bit result is written, the low half first (R284, R288). -/
def State.setPair (s : State) (dLo dHi : Reg) (r : BitVec 64) : State :=
  (s.setReg dLo (r.extractLsb' 0 32)).setReg dHi (r.extractLsb' 32 32)

/-- MUL (R282). -/
def execMul (d m rs : Reg) (s : State) : Outcome :=
  guardUnpred (mulChecks [d, m, rs] d m) s (.next (s.setReg d (s.reg m * s.reg rs)))

/-- MULS (R282, R281). -/
def execMuls (d m rs : Reg) (s : State) : Outcome :=
  guardUnpred (mulChecks [d, m, rs] d m) s
    (.next ((s.setReg d (s.reg m * s.reg rs)).commitMul (s.reg m * s.reg rs)))

/-- MLA (R283). -/
def execMla (d m rs acc : Reg) (s : State) : Outcome :=
  guardUnpred (mulChecks [d, m, rs, acc] d m) s (.next (s.setReg d (s.reg m * s.reg rs + s.reg acc)))

/-- MLAS (R283, R281). -/
def execMlas (d m rs acc : Reg) (s : State) : Outcome :=
  guardUnpred (mulChecks [d, m, rs, acc] d m) s
    (.next ((s.setReg d (s.reg m * s.reg rs + s.reg acc)).commitMul (s.reg m * s.reg rs + s.reg acc)))

/-- A long multiply with S = 0, of the result `r`. -/
def mulLong (r : BitVec 64) (dLo dHi m rs : Reg) (s : State) : Outcome :=
  guardUnpred (mulLongChecks dLo dHi m rs) s (.next (s.setPair dLo dHi r))

/-- A long multiply with S = 1, of the result `r` (R281). -/
def mulLongFlags (r : BitVec 64) (dLo dHi m rs : Reg) (s : State) : Outcome :=
  guardUnpred (mulLongChecks dLo dHi m rs) s (.next ((s.setPair dLo dHi r).commitMulLong r))

/-- UMULL (R284). -/
def execUmull (dLo dHi m rs : Reg) (s : State) : Outcome := mulLong (unsignedProduct m rs s) dLo dHi m rs s

/-- UMULLS (R284, R281). -/
def execUmulls (dLo dHi m rs : Reg) (s : State) : Outcome := mulLongFlags (unsignedProduct m rs s) dLo dHi m rs s

/-- UMLAL (R285). -/
def execUmlal (dLo dHi m rs : Reg) (s : State) : Outcome :=
  mulLong (unsignedProduct m rs s + accumulator dLo dHi s) dLo dHi m rs s

/-- UMLALS (R285, R281). -/
def execUmlals (dLo dHi m rs : Reg) (s : State) : Outcome :=
  mulLongFlags (unsignedProduct m rs s + accumulator dLo dHi s) dLo dHi m rs s

/-- SMULL (R286). -/
def execSmull (dLo dHi m rs : Reg) (s : State) : Outcome := mulLong (signedProduct m rs s) dLo dHi m rs s

/-- SMULLS (R286, R281). -/
def execSmulls (dLo dHi m rs : Reg) (s : State) : Outcome := mulLongFlags (signedProduct m rs s) dLo dHi m rs s

/-- SMLAL (R287). -/
def execSmlal (dLo dHi m rs : Reg) (s : State) : Outcome :=
  mulLong (signedProduct m rs s + accumulator dLo dHi s) dLo dHi m rs s

/-- SMLALS (R287, R281). -/
def execSmlals (dLo dHi m rs : Reg) (s : State) : Outcome :=
  mulLongFlags (signedProduct m rs s + accumulator dLo dHi s) dLo dHi m rs s

end Sys2Proof.Machine
end

