-- ==== Sys2Proof/Machine/SingleTransfer.lean ====
section
/-! DEFINITION. The word and byte transfers (spec/46_single_transfer_swap.md R330-R338), and swap (R339-R341). -/

namespace Sys2Proof.Machine

/-- The UNPRED cases of R332, in its order. `reason` is LoadWriteBackBase or StoreWriteBackBase; `byte` is B. -/
def singleChecks (reason : UnpredReason) (byte : Bool) (d : Reg) (a : Mode2) : List (UnpredReason × Bool) :=
  [ (.writeBackPC, index2Wb a.ix && a.n == Reg.pc)
  , (.offsetPC, offset2IsPc a.off)
  , (reason, index2Wb a.ix && a.n == d)
  , (.transferPC, byte && d == Reg.pc) ]

/-- A load of a word (R333). -/
def loadWord (d : Reg) (a : Mode2) (s : State) : Outcome :=
  let ea := resolveMode2 a s
  loadWith (singleChecks .loadWriteBackBase false d a) .word a.n d ea (s.loadedWord ea.addr)
    (wordRead ea.addr) s

/-- A load of a byte (R335). -/
def loadByte (d : Reg) (a : Mode2) (s : State) : Outcome :=
  let ea := resolveMode2 a s
  loadWith (singleChecks .loadWriteBackBase true d a) .byte a.n d ea (s.loadedByte ea.addr)
    (byteRead ea.addr) s

/-- A store of a word (R334). -/
def storeWord (d : Reg) (a : Mode2) (s : State) : Outcome :=
  let ea := resolveMode2 a s
  storeWith (singleChecks .storeWriteBackBase false d a) .word a.n ea (s.store32 (alignWord ea.addr) (s.storeReg d)) s

/-- A store of a byte (R336). -/
def storeByte (d : Reg) (a : Mode2) (s : State) : Outcome :=
  let ea := resolveMode2 a s
  storeWith (singleChecks .storeWriteBackBase true d a) .byte a.n ea
    (s.store8 ea.addr ((s.storeReg d).extractLsb' 0 8)) s

/-- LDR (R333). -/
def execLdr (d : Reg) (a : Mode2) (s : State) : Outcome := loadWord d a s

/-- STR (R334). -/
def execStr (d : Reg) (a : Mode2) (s : State) : Outcome := storeWord d a s

/-- LDRB (R335). -/
def execLdrb (d : Reg) (a : Mode2) (s : State) : Outcome := loadByte d a s

/-- STRB (R336). -/
def execStrb (d : Reg) (a : Mode2) (s : State) : Outcome := storeByte d a s

/-- LDRT: as LDR, post-indexed (R337). -/
def execLdrt (d : Reg) (a : ModeT) (s : State) : Outcome := loadWord d (tMode2 a) s

/-- STRT: as STR, post-indexed (R337). -/
def execStrt (d : Reg) (a : ModeT) (s : State) : Outcome := storeWord d (tMode2 a) s

/-- LDRBT: as LDRB, post-indexed (R337). -/
def execLdrbt (d : Reg) (a : ModeT) (s : State) : Outcome := loadByte d (tMode2 a) s

/-- STRBT: as STRB, post-indexed (R337). -/
def execStrbt (d : Reg) (a : ModeT) (s : State) : Outcome := storeByte d (tMode2 a) s

/-- The UNPRED cases of R339, in its order. -/
def swapChecks (d m n : Reg) : List (UnpredReason × Bool) :=
  [ (.swapPC, n == Reg.pc || d == Reg.pc || m == Reg.pc)
  , (.swapBase, n == m || n == d) ]

/-- SWP (R340): the read, the write, then Rd. -/
def execSwp (d m n : Reg) (s : State) : Outcome :=
  let a := s.reg n
  guardUnpred (swapChecks d m n) s
    (guardAligned .word a s
      (.next (((s.ask (wordRead a)).store32 (alignWord a) (s.reg m)).setReg d (s.loadedWord a))))

/-- SWPB (R341). -/
def execSwpb (d m n : Reg) (s : State) : Outcome :=
  let a := s.reg n
  guardUnpred (swapChecks d m n) s
    (.next (((s.ask (byteRead a)).store8 a ((s.reg m).extractLsb' 0 8)).setReg d (s.loadedByte a)))

end Sys2Proof.Machine
end

