-- ==== Sys2Proof/Machine/StatusRegister.lean ====
section
/-! DEFINITION. MRS and MSR (spec/47_branch_system.md R365-R368). -/

namespace Sys2Proof.Machine

/-- MRS Rd, CPSR (R366). -/
def execMrsCpsr (d : Reg) (s : State) : Outcome :=
  guardUnpred [(.transferPC, d == Reg.pc)] s (.next (s.setReg d s.cpsr.toWord))

/-- MRS Rd, SPSR (R366): in a mode with no SPSR, Rd gets a free value. -/
def execMrsSpsr (d : Reg) (s : State) : Outcome :=
  guardUnpred [(.spsrAccessNoSPSR, !s.hasSpsr), (.transferPC, d == Reg.pc)] s
    (match s.currentSpsr with
     | some p => .next (s.setReg d p.toWord)
     | none => .next (State.setReg { s with draws := s.draws + 1 } d (Config.absentSpsr s.draws)))

/-- MSR CPSR_mask (R367). No PC write: a mode change does not flush (D13). -/
def execMsrCpsr (mask : BitVec 4) (o : PsrOperand) (s : State) : Outcome :=
  let v := resolvePsrOperand o s
  guardUnpred [(.msrThumbBit, mask.getLsbD 0 && v.getLsbD 5 != s.thumb)] s (.next (s.writeCpsr mask v))

/-- MSR SPSR_mask (R367): in a mode with no SPSR, no write. -/
def execMsrSpsr (mask : BitVec 4) (o : PsrOperand) (s : State) : Outcome :=
  guardUnpred [(.spsrAccessNoSPSR, !s.hasSpsr)] s (.next (s.writeSpsr mask (resolvePsrOperand o s)))

end Sys2Proof.Machine
end

