-- ==== Sys2Proof/Machine/Traps.lean ====
section
/-! DEFINITION. The trapping handlers SWI (spec/47_branch_system.md R375) and UNDEFINED (R377), with the trap entries of
spec/60_exceptions.md R433. -/

namespace Sys2Proof.Machine

/-- The undefined-instruction vector (R433). -/
def undefVector : Word := 0x00000004

/-- The software-interrupt vector (R433). -/
def swiVector : Word := 0x00000008

/-- `TrapEntry(SoftwareInterrupt, comment, A)` (R433): the reference entry to Supervisor mode, the entry given, or the halt. -/
def execSwi (comment : BitVec 24) (s : State) : Outcome :=
  match s.params.swiEntry with
  | .reference => .next (takeException .svc (s.execAddr + 4) swiVector false s)
  | .given => .next (s.enter (Config.swiEntry s.context comment s.execAddr))
  | .absent => .fault (.softwareInterrupt comment s.execAddr)

/-- `TrapEntry(UndefinedInstruction, w, A)` (R433): the reference entry to Undefined mode, the entry given, or the halt. `w` is
the whole word. -/
def execUndefined (c : Cond) (bits : BitVec 28) (s : State) : Outcome :=
  match s.params.undefEntry with
  | .reference => .next (takeException .und (s.execAddr + 4) undefVector false s)
  | .given => .next (s.enter (Config.undefEntry s.context (c.bits ++ bits) s.execAddr))
  | .absent => .fault (.undefinedInstruction (c.bits ++ bits) s.execAddr)

end Sys2Proof.Machine
end

