-- ==== Sys2Proof/Machine/Dispatch.lean ====
section
/-! DEFINITION. The handlers by instruction (spec/41_dispatch.md R143, R144): one arm for each constructor. -/

namespace Sys2Proof.Machine

def exec (i : Instr) (s : State) : Host.Outcome State Fault Refusal :=
  match i with
  | .and _ n d o => Sys2Proof.Machine.execAnd n d o s
  | .ands _ n d o => Sys2Proof.Machine.execAnds n d o s
  | .eor _ n d o => Sys2Proof.Machine.execEor n d o s
  | .eors _ n d o => Sys2Proof.Machine.execEors n d o s
  | .sub _ n d o => Sys2Proof.Machine.execSub n d o s
  | .subs _ n d o => Sys2Proof.Machine.execSubs n d o s
  | .rsb _ n d o => Sys2Proof.Machine.execRsb n d o s
  | .rsbs _ n d o => Sys2Proof.Machine.execRsbs n d o s
  | .add _ n d o => Sys2Proof.Machine.execAdd n d o s
  | .adds _ n d o => Sys2Proof.Machine.execAdds n d o s
  | .adc _ n d o => Sys2Proof.Machine.execAdc n d o s
  | .adcs _ n d o => Sys2Proof.Machine.execAdcs n d o s
  | .sbc _ n d o => Sys2Proof.Machine.execSbc n d o s
  | .sbcs _ n d o => Sys2Proof.Machine.execSbcs n d o s
  | .rsc _ n d o => Sys2Proof.Machine.execRsc n d o s
  | .rscs _ n d o => Sys2Proof.Machine.execRscs n d o s
  | .tst _ n o => Sys2Proof.Machine.execTst n o s
  | .teq _ n o => Sys2Proof.Machine.execTeq n o s
  | .cmp _ n o => Sys2Proof.Machine.execCmp n o s
  | .cmn _ n o => Sys2Proof.Machine.execCmn n o s
  | .orr _ n d o => Sys2Proof.Machine.execOrr n d o s
  | .orrs _ n d o => Sys2Proof.Machine.execOrrs n d o s
  | .mov _ d o => Sys2Proof.Machine.execMov d o s
  | .movs _ d o => Sys2Proof.Machine.execMovs d o s
  | .bic _ n d o => Sys2Proof.Machine.execBic n d o s
  | .bics _ n d o => Sys2Proof.Machine.execBics n d o s
  | .mvn _ d o => Sys2Proof.Machine.execMvn d o s
  | .mvns _ d o => Sys2Proof.Machine.execMvns d o s
  | .mul _ d m rs => Sys2Proof.Machine.execMul d m rs s
  | .muls _ d m rs => Sys2Proof.Machine.execMuls d m rs s
  | .mla _ d m rs acc => Sys2Proof.Machine.execMla d m rs acc s
  | .mlas _ d m rs acc => Sys2Proof.Machine.execMlas d m rs acc s
  | .umull _ dLo dHi m rs => Sys2Proof.Machine.execUmull dLo dHi m rs s
  | .umulls _ dLo dHi m rs => Sys2Proof.Machine.execUmulls dLo dHi m rs s
  | .umlal _ dLo dHi m rs => Sys2Proof.Machine.execUmlal dLo dHi m rs s
  | .umlals _ dLo dHi m rs => Sys2Proof.Machine.execUmlals dLo dHi m rs s
  | .smull _ dLo dHi m rs => Sys2Proof.Machine.execSmull dLo dHi m rs s
  | .smulls _ dLo dHi m rs => Sys2Proof.Machine.execSmulls dLo dHi m rs s
  | .smlal _ dLo dHi m rs => Sys2Proof.Machine.execSmlal dLo dHi m rs s
  | .smlals _ dLo dHi m rs => Sys2Proof.Machine.execSmlals dLo dHi m rs s
  | .strh _ d a => Sys2Proof.Machine.execStrh d a s
  | .ldrh _ d a => Sys2Proof.Machine.execLdrh d a s
  | .ldrsb _ d a => Sys2Proof.Machine.execLdrsb d a s
  | .ldrsh _ d a => Sys2Proof.Machine.execLdrsh d a s
  | .ldrd _ d a => Sys2Proof.Machine.execLdrd d a s
  | .strd _ d a => Sys2Proof.Machine.execStrd d a s
  | .ldr _ d a => Sys2Proof.Machine.execLdr d a s
  | .str _ d a => Sys2Proof.Machine.execStr d a s
  | .ldrb _ d a => Sys2Proof.Machine.execLdrb d a s
  | .strb _ d a => Sys2Proof.Machine.execStrb d a s
  | .ldrt _ d a => Sys2Proof.Machine.execLdrt d a s
  | .strt _ d a => Sys2Proof.Machine.execStrt d a s
  | .ldrbt _ d a => Sys2Proof.Machine.execLdrbt d a s
  | .strbt _ d a => Sys2Proof.Machine.execStrbt d a s
  | .swp _ d m n => Sys2Proof.Machine.execSwp d m n s
  | .swpb _ d m n => Sys2Proof.Machine.execSwpb d m n s
  | .b _ imm24 => Sys2Proof.Machine.execB imm24 s
  | .bl _ imm24 => Sys2Proof.Machine.execBl imm24 s
  | .bx _ m => Sys2Proof.Machine.execBx m s
  | .mrsCpsr _ d => Sys2Proof.Machine.execMrsCpsr d s
  | .mrsSpsr _ d => Sys2Proof.Machine.execMrsSpsr d s
  | .msrCpsr _ mask o => Sys2Proof.Machine.execMsrCpsr mask o s
  | .msrSpsr _ mask o => Sys2Proof.Machine.execMsrSpsr mask o s
  | .stm _ a => Sys2Proof.Machine.execStm a s
  | .ldm _ a => Sys2Proof.Machine.execLdm a s
  | .swi _ comment => Sys2Proof.Machine.execSwi comment s
  | .undefined c bits => Sys2Proof.Machine.execUndefined c bits s

end Sys2Proof.Machine
end

