-- ==== Sys2Proof/Machine/Pipeline.lean ====
section
/-! DEFINITION. The pipeline engine (spec/48_pipeline_engine.md R400-R416): the fetch, the shift of the window, the flushing
step, the acting step and the advance; what the caller may do between steps (R415, R436); and placing an instruction for the
next step. -/

namespace Sys2Proof.Machine

/-- `FetchWord(pc)`, which is `MemRead(pc, 4)` (R61, R64). -/
def fetchWord (s : State) : Word := s.load32 s.pc

/-- Phase 1, the shift (R401). -/
def shift (s : State) : State :=
  { s.ask (.read .word s.pc) with executeSlot := s.decodeSlot, decodeSlot := s.fetchSlot, fetchSlot := fetchWord s }

/-- Phase 3 without a PC write (R405). -/
def advance (s : State) : State := { s with pc := s.pc + 4 }

/-- Phase 2 of the flushing state (R403): the counter is halved. -/
def tick (s : State) : State := { s with counter := s.counter >>> 1 }

/-- Phase 3 after a handler: a PC write has set the counter to 3 and keeps pc, else pc advances (R405, R406). -/
def finish (s : State) : State := if s.counter = 0 then advance s else s

/-- Phases 2 and 3 of the normal state for a decoded instruction (R411): a failing condition is a plain skip (R123). -/
def act (i : Instr) (s : State) : Outcome :=
  if s.passes i.cond then
    match exec i s with
    | .next t => .next (finish t)
    | .fault r => .fault r
    | .refused r => .refused r
  else .next (advance s)

/-- The step (R400). It is refused while T = 1 (R416). -/
def stepState (s : State) : Outcome :=
  if s.thumb then .refused .thumbState
  else if s.counter = 0 then act (decodeWord (shift s).executeSlot) (shift s)
  else .next (advance (tick (shift s)))

/-- The kind a step reports (R410). -/
inductive StepKind
  | flushed
  | skipped
  | executed
deriving DecidableEq, Repr

/-- The kind of the next step (R400, R410). -/
def stepKind (s : State) : StepKind :=
  if s.counter = 0 then (if s.passes (decodeWord s.decodeSlot).cond then .executed else .skipped) else .flushed

/-- The outcome a step reports (R410); `Trap` and `Fault` are the faults it halts with (R409). -/
inductive StepOutcome
  | continues
  | exitThumb (target : Word)
  | halts (r : Fault)
deriving DecidableEq, Repr

/-- What a step reports (R410), and the state it leaves. -/
structure StepReport where
  kind : StepKind
  outcome : StepOutcome
  state : State
deriving DecidableEq, Repr

/-- The state that a step which halts leaves (R409): the handler raised before any write, so it is the state at the start of
phase 2. The window is shifted, and pc is not advanced. -/
def haltedState (s : State) : State := shift s

/-- The instruction is one that traps (R407); its outcome, with an entry function, is Continue. -/
def traps (i : Instr) : Bool :=
  match i with
  | .swi _ _ | .undefined _ _ => true
  | _ => false

/-- The outcome of a step from `s` to `t` (R410). The hand-over of R408 is the one way in which, without a trap, T is 1 and the
counter 3 after a step. -/
def nextOutcome (s t : State) : StepOutcome :=
  if t.thumb && t.counter == 3 && !traps (decodeWord s.decodeSlot) then .exitThumb t.pc else .continues

/-- The report of the next step (R410), or nothing while T = 1. -/
def stepReport (s : State) : Option StepReport :=
  match stepState s with
  | .next t => some ⟨stepKind s, nextOutcome s t, t⟩
  | .fault r => some ⟨stepKind s, .halts r, haltedState s⟩
  | .refused _ => none

/-- `NextAddr()` (R415): the address of the next instruction that executes. -/
def nextAddr (s : State) : Word :=
  match s.counter.toNat with
  | 3 => s.pc
  | 0 => s.pc - 8
  | _ => s.pc - 4

/-- The reference `interruptEntry(kind, nextAddr)` (R436). -/
def interruptEntry (k : InterruptKind) (next : Word) (s : State) : State :=
  match k with
  | .irq => takeException .irq (next + 4) 0x00000018 false s
  | .fiq => takeException .fiq (next + 4) 0x0000001C true s

/-- An interrupt delivered between two steps (R415, R436): the reference entry, the entry given, or the halt of R9. -/
def deliverInterrupt (k : InterruptKind) (s : State) : Outcome :=
  match s.params.interruptEntry with
  | .reference => .next (interruptEntry k (nextAddr s) s)
  | .given => .next (s.enter (Config.interruptEntry s.context k (nextAddr s)))
  | .absent => .fault (.interrupt k (nextAddr s))

/-- The state with the instruction word `w` in memory at the next instruction's address and in the pipeline, so that the very
next step executes it (log 7): T = 0, counter = 0, the word in the decode slot, and pc eight bytes ahead. -/
def placeInstruction (s : State) (nbits w : Nat) : State :=
  let word := tableWord nbits w
  let a := nextAddr s
  let mem := s.mem.write32 a word
  { s with
    mem := mem
    cpsr := s.cpsr.withT false
    decodeSlot := word
    fetchSlot := if s.counter = 0 then s.fetchSlot else mem.read32 (a + 4)
    counter := 0
    pc := a + 8 }

end Sys2Proof.Machine
end

