-- ==== Sys2Proof/Machine/Step.lean ====
section
/-! DEFINITION. The step of the machine and the placing of an instruction, under the names the host reads. -/

namespace Sys2Proof.Machine

/-- One step (spec/48_pipeline_engine.md R400). -/
def step (s : State) : Host.Outcome State Fault Refusal := stepState s

/-- The state whose very next step runs the instruction word `w` (log 7). -/
def State.withFetchWord (s : State) (nbits w : Nat) : State := placeInstruction s nbits w

end Sys2Proof.Machine
end

