-- ==== Sys2Proof/Safety.lean ====
section
/-! DEFINITION. What claims about the machine are stated in: the invariant and the safe runs, what each instruction may write,
the bits of a word that the decoder ignores, and the operand choices that are not UNPREDICTABLE. -/

namespace Sys2Proof.Machine

/-! ### Runs -/

/-- pc is a multiple of 4 (spec/10_state.md R43); after the hand-over to THUMB state it is a multiple of 2 (R408). -/
abbrev State.pcAligned (s : State) : Prop := s.pc.extractLsb' 0 2 = 0 ∨ (s.thumb = true ∧ s.pc.getLsbD 0 = false)

/-- The invariant of the machine: memory is in its canonical form, pc is aligned (R43), and the counter is not 2 (R32). -/
structure State.Inv (s : State) : Prop where
  mem_wf : s.mem.wf
  pc_aligned : s.pcAligned
  counter_legal : s.counter ≠ 2

/-- The parameters under which no instruction halts the machine: Compute, ARM7TDMI and some entry function of each trap, as
log 1 launches. -/
def State.total (s : State) : Prop :=
  s.params.unpred = .compute ∧ s.params.misalign = .arm7tdmi ∧ s.params.undefEntry ≠ .absent
    ∧ s.params.swiEntry ≠ .absent

/-- A state with other flags. -/
def State.withFlags (s : State) (n z c v : Bool) : State := { s with cpsr := { s.cpsr with n := n, z := z, c := c, v := v } }

/-- What the step adds around the handler (R405, R406): after a handler that wrote no pc, pc advances. -/
def afterHandler (r : Outcome) : Outcome :=
  match r with
  | .next t => .next (if t.counter = 0 then { t with pc := t.pc + 4 } else t)
  | .fault f => .fault f
  | .refused f => .refused f

/-! ### Operand choices that are not UNPREDICTABLE -/

/-- A register-shift form names no r15 (R179); `used` are Rn and Rd. -/
def avoidsPc (used : List Reg) (o : ShifterOperand) : Prop :=
  match o with
  | .shiftReg _ rs m => rs ≠ Reg.pc ∧ m ≠ Reg.pc ∧ Reg.pc ∉ used
  | _ => True

/-- A single transfer with none of the cases of R332. -/
def regular2 (byte : Bool) (d : Reg) (a : Mode2) : Prop :=
  (a.ix ≠ .offset → a.n ≠ Reg.pc ∧ a.n ≠ d) ∧ (∀ t amt, a.off ≠ .reg t amt Reg.pc) ∧ (byte = true → d ≠ Reg.pc)

/-- An extended transfer of one register with none of the cases of R302. -/
def regular3 (d : Reg) (a : Mode3) : Prop :=
  (a.ix ≠ .offset → a.n ≠ Reg.pc ∧ a.n ≠ d) ∧ a.ix ≠ .postW ∧ a.off ≠ .reg Reg.pc ∧ d ≠ Reg.pc

/-- A doubleword transfer with none of the cases of R302: `regular3`, a register pair, and for LDRD no write-back to d + 1. -/
def regularPair (load : Bool) (d : Reg) (a : Mode3) : Prop :=
  regular3 d a ∧ d.val % 2 = 0 ∧ d ≠ Reg.lr ∧ (load = true → a.ix ≠ .offset → a.n ≠ d + 1)

/-- A swap with none of the cases of R339. -/
def regularSwap (d m n : Reg) : Prop := Reg.pc ∉ [n, d, m] ∧ n ≠ m ∧ n ≠ d

/-- The registers of a list below register `i`: how many words lie before it in a block transfer (R196, R197). -/
def rank (list : BitVec 16) (i : Nat) : Nat := ((List.range i).filter (fun k => list.getLsbD k)).length

/-- An STM with none of the cases of R369 and R370. -/
def regularStm (a : Mode4) : Prop :=
  a.list ≠ 0 ∧ a.n ≠ Reg.pc ∧ ¬(a.s = true ∧ a.w = true)
    ∧ (a.w = true → a.list.getLsbD a.n.val = true → rank a.list a.n.val = 0)

/-- An LDM with none of the cases of R369 and R371. -/
def regularLdm (a : Mode4) (s : State) : Prop :=
  a.list ≠ 0 ∧ a.n ≠ Reg.pc ∧ ¬(a.s = true ∧ a.w = true ∧ a.list.getLsbD 15 = false)
    ∧ ¬(a.s = true ∧ a.list.getLsbD 15 = true ∧ s.exc? = none) ∧ ¬(a.w = true ∧ a.list.getLsbD a.n.val = true)

/-! ### What an instruction may write -/

/-- The physical register that a register number is in the current mode; r15 is none. -/
def State.cell? (s : State) (i : Reg) : Option RegCell :=
  if h : i.val < 15 then some (s.cellOf ⟨i.val, h⟩) else none

/-- The physical register that a register number is in the User bank; r15 is none. -/
def State.userCell? (s : State) (i : Reg) : Option RegCell := if h : i.val < 15 then some (s.userCellOf ⟨i.val, h⟩) else none

/-- The base of a mode-2 transfer, if it is written back (R184, R331). -/
def wbBase2 (a : Mode2) : List Reg := if a.ix = .offset then [] else [a.n]

/-- The base of a mode-3 transfer, if it is written back (R184, R301). -/
def wbBase3 (a : Mode3) : List Reg := if a.ix = .offset then [] else [a.n]

/-- The numbered registers that an instruction may write, in the bank of the current mode: its destinations, a base that is
written back, and the link register of BL. -/
def dests (i : Instr) : List Reg :=
  match i with
  | .and _ _ d _ => [d]
  | .ands _ _ d _ => [d]
  | .eor _ _ d _ => [d]
  | .eors _ _ d _ => [d]
  | .sub _ _ d _ => [d]
  | .subs _ _ d _ => [d]
  | .rsb _ _ d _ => [d]
  | .rsbs _ _ d _ => [d]
  | .add _ _ d _ => [d]
  | .adds _ _ d _ => [d]
  | .adc _ _ d _ => [d]
  | .adcs _ _ d _ => [d]
  | .sbc _ _ d _ => [d]
  | .sbcs _ _ d _ => [d]
  | .rsc _ _ d _ => [d]
  | .rscs _ _ d _ => [d]
  | .tst _ _ _ => []
  | .teq _ _ _ => []
  | .cmp _ _ _ => []
  | .cmn _ _ _ => []
  | .orr _ _ d _ => [d]
  | .orrs _ _ d _ => [d]
  | .mov _ d _ => [d]
  | .movs _ d _ => [d]
  | .bic _ _ d _ => [d]
  | .bics _ _ d _ => [d]
  | .mvn _ d _ => [d]
  | .mvns _ d _ => [d]
  | .mul _ d _ _ => [d]
  | .muls _ d _ _ => [d]
  | .mla _ d _ _ _ => [d]
  | .mlas _ d _ _ _ => [d]
  | .umull _ dLo dHi _ _ => [dLo, dHi]
  | .umulls _ dLo dHi _ _ => [dLo, dHi]
  | .umlal _ dLo dHi _ _ => [dLo, dHi]
  | .umlals _ dLo dHi _ _ => [dLo, dHi]
  | .smull _ dLo dHi _ _ => [dLo, dHi]
  | .smulls _ dLo dHi _ _ => [dLo, dHi]
  | .smlal _ dLo dHi _ _ => [dLo, dHi]
  | .smlals _ dLo dHi _ _ => [dLo, dHi]
  | .strh _ _ a => wbBase3 a
  | .ldrh _ d a => d :: wbBase3 a
  | .ldrsb _ d a => d :: wbBase3 a
  | .ldrsh _ d a => d :: wbBase3 a
  | .ldrd _ d a => d :: (d + 1) :: wbBase3 a
  | .strd _ _ a => wbBase3 a
  | .ldr _ d a => d :: wbBase2 a
  | .str _ _ a => wbBase2 a
  | .ldrb _ d a => d :: wbBase2 a
  | .strb _ _ a => wbBase2 a
  | .ldrt _ d a => [d, a.n]
  | .strt _ _ a => [a.n]
  | .ldrbt _ d a => [d, a.n]
  | .strbt _ _ a => [a.n]
  | .swp _ d _ _ => [d]
  | .swpb _ d _ _ => [d]
  | .b _ _ => []
  | .bl _ _ => [Reg.lr]
  | .bx _ _ => []
  | .mrsCpsr _ d => [d]
  | .mrsSpsr _ d => [d]
  | .msrCpsr _ _ _ => []
  | .msrSpsr _ _ _ => []
  | .stm _ a => if a.w then [a.n] else []
  | .ldm _ a => (if a.w then [a.n] else []) ++ (if a.s && !a.list.getLsbD 15 then [] else listRegs a.list)
  | .swi _ _ => []
  | .undefined _ _ => []

/-- The numbered registers that an instruction may write in the User bank: those of an LDM with S = 1 whose list lacks r15
(R371). -/
def userDests (i : Instr) : List Reg :=
  match i with
  | .ldm _ a => if a.s && !a.list.getLsbD 15 then listRegs a.list else []
  | _ => []

/-- Every physical register. -/
def allCells : List RegCell :=
  (List.finRange 15).map .usr ++ (List.finRange 7).map .fiq ++ (List.finRange 2).map .irq ++ (List.finRange 2).map .svc
    ++ (List.finRange 2).map .abt ++ (List.finRange 2).map .und

/-- The instruction traps to an entry function of which nothing is known (log 18). -/
def givenEntry (i : Instr) (s : State) : Bool :=
  match i with
  | .swi _ _ => s.params.swiEntry = .given
  | .undefined _ _ => s.params.undefEntry = .given
  | _ => false

/-- The registers that a trap entry may write: r14 of the new mode, for the reference entry (R433); any, for another. -/
def entryCells (i : Instr) (s : State) : List RegCell :=
  if givenEntry i s then allCells
  else
    match i with
    | .swi _ _ => [cellIn s.params.ctx 0x13 14]
    | .undefined _ _ => [cellIn s.params.ctx 0x1B 14]
    | _ => []

/-- The physical registers that an instruction may write. -/
def writtenCells (i : Instr) (s : State) : List RegCell :=
  (dests i).filterMap s.cell? ++ (userDests i).filterMap s.userCell? ++ entryCells i s

/-- The `n` addresses from `a` up. -/
def bytesFrom (a : Word) (n : Nat) : List Word := (List.range n).map (fun k => a + BitVec.ofNat 32 k)

/-- The bytes of memory that an instruction stores to; none, for an instruction that stores nothing. -/
def storedBytes (i : Instr) (s : State) : List Word :=
  match i with
  | .strh _ _ a => bytesFrom (alignHalf (resolveMode3 a s).addr) 2
  | .strd _ _ a => bytesFrom (alignWord (resolveMode3 a s).addr) 8
  | .str _ _ a => bytesFrom (alignWord (resolveMode2 a s).addr) 4
  | .strb _ _ a => bytesFrom (resolveMode2 a s).addr 1
  | .strt _ _ a => bytesFrom (alignWord (resolveMode2 (tMode2 a) s).addr) 4
  | .strbt _ _ a => bytesFrom (resolveMode2 (tMode2 a) s).addr 1
  | .swp _ _ _ n => bytesFrom (alignWord (s.reg n)) 4
  | .swpb _ _ _ n => bytesFrom (s.reg n) 1
  | .stm _ a => bytesFrom (alignWord (blockStart a (s.reg a.n))) (4 * (blockRegs a).length)
  | _ => []

/-- An LDM that restores CPSR (R371): S = 1 and r15 is transferred, by an empty list too (log 19). -/
def restoringLdm (a : Mode4) : Bool := a.s && (a.list.getLsbD 15 || a.list == 0)

/-- The instructions that may write a flag (R36): the data-processing forms with S = 1, the compares, the multiplies with
S = 1, MSR of CPSR with the f field, the LDM that restores CPSR, and a trap whose entry function is not the reference. -/
def writesFlags (i : Instr) (s : State) : Bool :=
  match i with
  | .ands _ _ _ _ | .eors _ _ _ _ | .subs _ _ _ _ | .rsbs _ _ _ _ | .adds _ _ _ _ | .adcs _ _ _ _ => true
  | .sbcs _ _ _ _ | .rscs _ _ _ _ | .orrs _ _ _ _ | .movs _ _ _ | .bics _ _ _ _ | .mvns _ _ _ => true
  | .tst _ _ _ | .teq _ _ _ | .cmp _ _ _ | .cmn _ _ _ => true
  | .muls _ _ _ _ | .mlas _ _ _ _ _ => true
  | .umulls _ _ _ _ _ | .umlals _ _ _ _ _ | .smulls _ _ _ _ _ | .smlals _ _ _ _ _ => true
  | .msrCpsr _ mask _ => mask.getLsbD 3
  | .ldm _ a => restoringLdm a
  | _ => givenEntry i s

/-- The instructions that may write CPSR[27:0]: the exception returns (R233, R371), MSR of CPSR with a field mask that is not
empty (R367), BX (by the hand-over of R408), and the trap entries (R433). -/
def writesStatus (i : Instr) : Bool :=
  match i with
  | .ands _ _ d _ | .eors _ _ d _ | .subs _ _ d _ | .rsbs _ _ d _ | .adds _ _ d _ | .adcs _ _ d _ => d == Reg.pc
  | .sbcs _ _ d _ | .rscs _ _ d _ | .orrs _ _ d _ | .movs _ d _ | .bics _ _ d _ | .mvns _ d _ => d == Reg.pc
  | .msrCpsr _ mask _ => mask != 0
  | .ldm _ a => restoringLdm a
  | .bx _ _ => true
  | .swi _ _ | .undefined _ _ => true
  | _ => false

/-- The instructions that may write an SPSR: MSR of SPSR (R367) and the trap entries (R433). -/
def writesSpsr (i : Instr) : Bool :=
  match i with
  | .msrSpsr _ _ _ | .swi _ _ | .undefined _ _ => true
  | _ => false

end Sys2Proof.Machine

namespace Sys2Proof

/-- The bits of the word of an instruction that the decoder ignores (R108), and the accumulate field of MUL (R280). -/
def ignoredBits (i : Instr) : Word :=
  match i with
  | .tst _ _ _ | .teq _ _ _ | .cmp _ _ _ | .cmn _ _ _ => 0x0000F000
  | .mov _ _ _ | .movs _ _ _ | .mvn _ _ _ | .mvns _ _ _ => 0x000F0000
  | .mul _ _ _ _ | .muls _ _ _ _ => 0x0000F000
  | .strh _ _ ⟨_, _, _, .reg _⟩ | .ldrh _ _ ⟨_, _, _, .reg _⟩ | .ldrsb _ _ ⟨_, _, _, .reg _⟩ => 0x00000F00
  | .ldrsh _ _ ⟨_, _, _, .reg _⟩ | .ldrd _ _ ⟨_, _, _, .reg _⟩ | .strd _ _ ⟨_, _, _, .reg _⟩ => 0x00000F00
  | .swp _ _ _ _ | .swpb _ _ _ _ => 0x00000F00
  | .mrsCpsr _ _ | .mrsSpsr _ _ => 0x000F0F0F
  | .msrCpsr _ _ (.reg _) | .msrSpsr _ _ (.reg _) => 0x0000FF00
  | .msrCpsr _ _ (.imm _ _) | .msrSpsr _ _ (.imm _ _) => 0x0000F000
  | .bx _ _ => 0x000FFF00
  | _ => 0

end Sys2Proof
end

