-- ==== Sys2Proof/Certificates/Slice0/Obligations.lean ====
section
/-! DEFINITION. The statements for the provers, from the numbered rules of spec/. -/

open Sys2Proof Sys2Proof.Machine

/-! ### Encoding -/

/-- R90-R104: a decoded encoded instruction is the instruction, with every operand, and the bytes behind it are left. -/
def Obligations.DecodeOfEncodeIsTheInstruction : Prop :=
  ∀ i : Instr, i.wellFormed = true →
    decodeWord (encode i) = i ∧ ∀ rest : List Byte, decode (wordBytes (encode i) ++ rest) = .ok (i, rest)

/-- R108: a word that differs from a canonical encoding only in ignored bits decodes as the canonical encoding. -/
def Obligations.IgnoredBitsDoNotChangeDecoding : Prop :=
  ∀ (i : Instr) (w : Word), i.wellFormed = true →
    (∀ k : Nat, (ignoredBits i).getLsbD k = false → w.getLsbD k = (encode i).getLsbD k) → decodeWord w = i

/-- R143, R145: every word decodes, to a well-formed instruction of the handler and the resolver of its own cell, with its own
condition field. -/
def Obligations.EveryWordDecodesToItsCell : Prop :=
  ∀ w : Word, (decodeWord w).wellFormed = true
    ∧ ((decodeWord w).handler, (decodeWord w).resolver) = table (w.extractLsb' 20 8) (w.extractLsb' 4 4)
    ∧ (decodeWord w).cond.bits = w.extractLsb' 28 4

/-- R107, R376: the cells that hold UNDEFINED are those of R107's list. -/
def Obligations.UndefinedCellsAreListed : Prop :=
  ∀ w : Word,
    ((∃ c bits, decodeWord w = .undefined c bits)
      ↔ undefinedCell (w.extractLsb' 20 8).toNat (w.extractLsb' 4 4).toNat = true)
    ∧ (∀ c bits, decodeWord w = .undefined c bits → c.bits ++ bits = w)

/-- Words that the spec writes out decode to the instructions it names. -/
def Obligations.WorkedWordsDecode : Prop :=
  decodeWord 0xE0812003 = .add .al 1 2 (.shiftImm .lsl 0 3)
  ∧ decodeWord 0x10812003 = .add .ne 1 2 (.shiftImm .lsl 0 3)
  ∧ decodeWord 0xE0412093 = .undefined .al 0x0412093
  ∧ decodeWord 0xE0203291 = .mla .al 0 1 2 3
  ∧ decodeWord 0xE0810392 = .umull .al 0 1 2 3
  ∧ decodeWord 0xE05100B2 = .ldrh .al 0 ⟨.post, false, 1, .imm 2⟩
  ∧ decodeWord 0xE7910102 = .ldr .al 0 ⟨.offset, true, 1, .reg .lsl 2 2⟩
  ∧ decodeWord 0xE4B10004 = .ldrt .al 0 ⟨true, 1, .imm 4⟩
  ∧ decodeWord 0xE1020091 = .swp .al 0 1 2
  ∧ decodeWord 0xE92D4010 = .stm .al ⟨true, false, false, true, 13, 0x4010⟩
  ∧ decodeWord 0xE8BD8010 = .ldm .al ⟨false, true, false, true, 13, 0x8010⟩
  ∧ decodeWord 0xE328F20F = .msrCpsr .al 8 (.imm 2 0x0F)
  ∧ decodeWord 0xEF000012 = .swi .al 0x12

/-! ### The condition evaluator -/

/-- R120: the condition evaluator, by the value of the condition field. -/
def Obligations.ConditionEvaluator : Prop :=
  ∀ n z c v : Bool,
    condPass (Cond.ofBits 0x0) n z c v = z ∧ condPass (Cond.ofBits 0x1) n z c v = !z
    ∧ condPass (Cond.ofBits 0x2) n z c v = c ∧ condPass (Cond.ofBits 0x3) n z c v = !c
    ∧ condPass (Cond.ofBits 0x4) n z c v = n ∧ condPass (Cond.ofBits 0x5) n z c v = !n
    ∧ condPass (Cond.ofBits 0x6) n z c v = v ∧ condPass (Cond.ofBits 0x7) n z c v = !v
    ∧ condPass (Cond.ofBits 0x8) n z c v = (c && !z) ∧ condPass (Cond.ofBits 0x9) n z c v = (!c || z)
    ∧ condPass (Cond.ofBits 0xA) n z c v = decide (n = v) ∧ condPass (Cond.ofBits 0xB) n z c v = decide (n ≠ v)
    ∧ condPass (Cond.ofBits 0xC) n z c v = (!z && decide (n = v))
    ∧ condPass (Cond.ofBits 0xD) n z c v = (z || decide (n ≠ v))
    ∧ condPass (Cond.ofBits 0xE) n z c v = true ∧ condPass (Cond.ofBits 0xF) n z c v = false

/-! ### The step -/

/-- R400, R402, R405, R406, R411: in the normal state, with a passing condition, the step shifts the window, runs the instruction
that the word of the decode slot decodes to, and advances pc by 4 unless the handler wrote it (its counter is then 3). `load32` and `ask`
are the fetch as an access of `MemoryIsLittleEndian`: with the default memory, `ask` changes nothing; another memory is the model's (log 21). -/
def Obligations.StepRunsTheDecodedInstruction : Prop :=
  ∀ (s : State) (i : Instr), s.thumb = false → s.counter = 0 → decodeWord s.decodeSlot = i →
    condPass i.cond s.cpsr.n s.cpsr.z s.cpsr.c s.cpsr.v = true →
    step s = afterHandler (exec i
      { s.ask (.read .word s.pc) with
        executeSlot := s.decodeSlot, decodeSlot := s.fetchSlot, fetchSlot := s.load32 s.pc })

/-- R123: a failing condition is a plain skip, whatever the cell of the word is. (The fetch from another memory than the default is the
model's, log 21.) -/
def Obligations.FailingConditionOnlyAdvances : Prop :=
  ∀ s : State, s.thumb = false → s.counter = 0 →
    condPass (decodeWord s.decodeSlot).cond s.cpsr.n s.cpsr.z s.cpsr.c s.cpsr.v = false →
    stepKind s = .skipped ∧ step s = .next
      { s.ask (.read .word s.pc) with
        executeSlot := s.decodeSlot, decodeSlot := s.fetchSlot, fetchSlot := s.load32 s.pc, pc := s.pc + 4 }

/-- R403: a flushing step. (The fetch from another memory than the default is the model's, log 21.) -/
def Obligations.FlushingStepHalvesTheCounter : Prop :=
  ∀ s : State, s.thumb = false → s.counter ≠ 0 →
    stepKind s = .flushed ∧ step s = .next
      { s.ask (.read .word s.pc) with
        executeSlot := s.decodeSlot, decodeSlot := s.fetchSlot, fetchSlot := s.load32 s.pc, pc := s.pc + 4,
        counter := s.counter >>> 1 }

/-- R404, R406, R413: after a PC write to T, the next two steps run no handler, and the third runs the instruction whose word is
fetched from T, with pc = T + 8. With the default memory, that word is the four bytes at T; another memory is the model's (log 21). -/
def Obligations.TargetRunsAfterTwoFlushes : Prop :=
  ∀ (s : State) (i : Instr), s.thumb = false → s.counter = 3 →
    decode (wordBytes (s.load32 s.pc)) = .ok (i, []) →
    (s.params.mem = .flat → wordBytes (s.load32 s.pc)
        = [s.mem.read8 s.pc, s.mem.read8 (s.pc + 1), s.mem.read8 (s.pc + 2), s.mem.read8 (s.pc + 3)])
    ∧ ∃ s1 s2 : State, step s = .next s1 ∧ step s1 = .next s2
      ∧ s2 = { (s.ask (.read .word s.pc)).ask (.read .word (s.pc + 4)) with
          executeSlot := s.fetchSlot, decodeSlot := s2.decodeSlot, fetchSlot := s2.fetchSlot, pc := s.pc + 8, counter := 0 }
      ∧ decodeWord s2.decodeSlot = i
      ∧ (condPass i.cond s.cpsr.n s.cpsr.z s.cpsr.c s.cpsr.v = true →
          ∃ s3 : State, step s2 = afterHandler (exec i s3) ∧ s3.pc - 8 = s.pc ∧ s3.mem = s.mem ∧ s3.regs = s.regs
            ∧ s3.cpsr = s.cpsr ∧ s3.spsr = s.spsr ∧ s3.draws = s.draws ∧ s3.params = s.params)

/-- R401, R80: every step that goes on has shifted the window, whatever its instruction did. So a store of one step changes neither
the word that the next step executes nor the word that the step after it executes. (Another memory than the default is the model's,
log 21.) -/
def Obligations.EveryStepShiftsTheWindow : Prop :=
  ∀ s t : State, step s = .next t →
    t.executeSlot = s.decodeSlot ∧ t.decodeSlot = s.fetchSlot ∧ t.fetchSlot = s.load32 s.pc
    ∧ ∀ u : State, step t = .next u → u.executeSlot = s.fetchSlot ∧ u.decodeSlot = s.load32 s.pc

/-- R412: the counter's transitions, and what pc is after each. That pc may be a multiple of 2 alone, with T = 1, after the
hand-over to THUMB state, where R408 leaves pc to the caller, is the model's choice (log 8). -/
def Obligations.CounterTransitions : Prop :=
  ∀ s t : State, step s = .next t →
    (s.counter = 3 → t.counter = 1 ∧ t.pc = s.pc + 4)
    ∧ (s.counter = 1 → t.counter = 0 ∧ t.pc = s.pc + 4)
    ∧ (s.counter = 0 → (t.counter = 0 ∧ t.pc = s.pc + 4) ∨ (t.counter = 3 ∧ t.pcAligned))

/-- Every step keeps the invariant: memory in canonical form, pc aligned, the counter not 2. -/
def Obligations.StepKeepsTheInvariant : Prop :=
  ∀ s t : State, s.Inv → step s = .next t → t.Inv

/-- The invariant holds after reset, for every launch whose memory is in canonical form, and so for the launch this model names. -/
def Obligations.ResetHasTheInvariant : Prop :=
  (∀ l : Launch, l.mem.wf → (State.boot l).Inv) ∧ launch.mem.wf ∧ State.reset.Inv

/-- R416 and log 8: a step is refused exactly while T = 1; no instruction is refused. -/
def Obligations.OnlyThumbStateIsRefused : Prop :=
  ∀ (s : State) (r : Refusal), (step s = .refused r ↔ s.thumb = true ∧ r = .thumbState) ∧ ∀ i : Instr, exec i s ≠ .refused r

/-- Under Compute, ARM7TDMI and an entry function of each trap, as log 1 launches, every instruction completes, and every step while
T = 0; the parameters stay. -/
def Obligations.EveryInstructionCompletes : Prop :=
  ∀ s : State, s.total →
    (∀ i : Instr, ∃ t, exec i s = .next t ∧ t.params = s.params) ∧ (s.thumb = false → ∃ t, step s = .next t ∧ t.total)

/-- R409, R410, R430, R432: what a handler halts with, the parameter that asks for it, and the address it reports; and the report and
the state of a step that halts: the window is shifted, the counter is 0, and nothing else has changed but that a memory other than the
default was asked for the word fetched (log 21). -/
def Obligations.HaltsAreAskedForByParameters : Prop :=
  (∀ (i : Instr) (s : State) (f : Fault), exec i s = .fault f →
    (∃ reason, f = .unpredictable reason (s.pc - 8) ∧ s.params.unpred = .fault)
    ∨ (∃ addr n, f = .misalignedAccess addr n (s.pc - 8) ∧ s.params.misalign = .fault ∧ misaligned n addr = true)
    ∨ (∃ c bits, i = .undefined c bits ∧ f = .undefinedInstruction (c.bits ++ bits) (s.pc - 8)
        ∧ s.params.undefEntry = .absent)
    ∨ (∃ c comment, i = .swi c comment ∧ f = .softwareInterrupt comment (s.pc - 8) ∧ s.params.swiEntry = .absent))
  ∧ ∀ (s : State) (f : Fault), step s = .fault f →
    s.counter = 0 ∧ stepReport s = some
      { kind := .executed
        outcome := .halts f
        state := { s.ask (.read .word s.pc) with
          executeSlot := s.decodeSlot, decodeSlot := s.fetchSlot, fetchSlot := s.load32 s.pc } }

/-- R460, and the entries of R44 that the spec gives a value: reset as an event between steps, and the state before the first step
of any launch. -/
def Obligations.ResetState : Prop :=
  (∀ s : State,
    (applyReset s).counter = 3 ∧ (applyReset s).fetchSlot = 0 ∧ (applyReset s).decodeSlot = 0
    ∧ (applyReset s).executeSlot = 0 ∧ (applyReset s).pc = s.params.resetPC &&& 0xFFFFFFFC)
  ∧ (∀ l : Launch,
    (State.boot l).counter = 3 ∧ (State.boot l).fetchSlot = 0 ∧ (State.boot l).decodeSlot = 0
    ∧ (State.boot l).executeSlot = 0 ∧ (State.boot l).pc = l.params.resetPC &&& 0xFFFFFFFC)
  ∧ State.reset.pc = 0x00000000

/-! ### Frames -/

/-- Every instruction leaves every physical register unchanged but its destinations, a base it writes back, the link register (BL),
the User registers of an LDM with S, and r14 of the mode a trap enters (any register, for an entry other than the reference, log 18). Which
registers a mode code that R440 does not list has, and those of each mode of another CPU context, are the model's (log 5, log 20). -/
def Obligations.RegisterFrame : Prop :=
  ∀ (i : Instr) (s t : State) (c : RegCell), exec i s = .next t → c ∉ writtenCells i s → t.regs.get c = s.regs.get c

/-- Every instruction leaves every byte of the default memory unchanged but those it stores to, at the address its operands give. That
SWI and UNDEFINED store nothing also with an entry other than the reference is the model's choice (log 18), and so is that no access changes
`State.mem` where the memory is another than the default (log 21). -/
def Obligations.MemoryFrame : Prop :=
  ∀ (i : Instr) (s t : State) (a : Word), exec i s = .next t → a ∉ storedBytes i s → t.mem.read8 a = s.mem.read8 a

/-- R36: every other instruction leaves N, Z, C and V unchanged. A trap with an entry other than the reference counts as one that writes
them (log 18). -/
def Obligations.FlagFrame : Prop :=
  ∀ (i : Instr) (s t : State), exec i s = .next t → writesFlags i s = false →
    t.cpsr.n = s.cpsr.n ∧ t.cpsr.z = s.cpsr.z ∧ t.cpsr.c = s.cpsr.c ∧ t.cpsr.v = s.cpsr.v

/-- R37, R368: CPSR[27:0] and the SPSRs are unchanged but by the instructions that the rules name, and the window's slots, the
parameters and, with the default memory, the model's record of accesses (log 21) by every instruction. -/
def Obligations.StatusFrame : Prop :=
  ∀ (i : Instr) (s t : State), exec i s = .next t →
    (writesStatus i = false → t.cpsr.rest = s.cpsr.rest) ∧ (writesSpsr i = false → t.spsr = s.spsr)
    ∧ t.fetchSlot = s.fetchSlot ∧ t.decodeSlot = s.decodeSlot ∧ t.executeSlot = s.executeSlot ∧ t.params = s.params
    ∧ (s.params.mem = .flat → t.bus = s.bus)

/-- R440, R441: a step in User mode leaves the mode, I, F, the SPSRs and every banked register of another mode unchanged, unless
it takes the entry of SWI or UNDEFINED. (Of an entry other than the reference, nothing is known, log 18; nor of what another CPU
context than that of R440 protects, log 20.) -/
def Obligations.UserModeIsLeftByTrapsOnly : Prop :=
  ∀ s t : State, s.params.ctx = .reference → s.cpsr.modeCode = 0x10 → step s = .next t →
    (t.cpsr.modeCode = 0x10 ∧ t.cpsr.i = s.cpsr.i ∧ t.cpsr.f = s.cpsr.f ∧ t.spsr = s.spsr
      ∧ ∀ c : RegCell, (∀ k, c ≠ .usr k) → t.regs.get c = s.regs.get c)
    ∨ (∃ c comment, decodeWord s.decodeSlot = .swi c comment
        ∧ (s.params.swiEntry = .reference → t.cpsr.modeCode = 0x13 ∧ t.pc = 0x00000008))
    ∨ (∃ c bits, decodeWord s.decodeSlot = .undefined c bits
        ∧ (s.params.undefEntry = .reference → t.cpsr.modeCode = 0x1B ∧ t.pc = 0x00000004))

/-! ### Registers and memory -/

/-- R33, R34, R35: a register reads as it was last written, no other register of the mode changes, and a write of r15 clears bits 1:0
and is known by the counter. (That a context other than R440's keeps the registers of a mode apart too is the model's choice, log 20.) -/
def Obligations.RegisterReadsAsWritten : Prop :=
  ∀ (s : State) (i j : Reg) (v : Word),
    (i ≠ Reg.pc → (s.setReg i v).reg i = v ∧ (s.setReg i v).counter = s.counter)
    ∧ (s.setReg Reg.pc v).reg Reg.pc = v &&& 0xFFFFFFFC ∧ (s.setReg Reg.pc v).counter = 3
    ∧ (j ≠ i → (s.setReg i v).reg j = s.reg j)

/-- R440: the modes of the listed codes, the SPSR of each, and which physical register each number is in each mode; and that these are
the registers and the SPSR of a state of the reference context (another context's are the model's, log 20). -/
def Obligations.ModesAndBanks : Prop :=
  Mode.ofCode 0x10 = .usr ∧ Mode.ofCode 0x11 = .fiq ∧ Mode.ofCode 0x12 = .irq ∧ Mode.ofCode 0x13 = .svc
  ∧ Mode.ofCode 0x17 = .abt ∧ Mode.ofCode 0x1B = .und ∧ Mode.ofCode 0x1F = .sys
  ∧ Mode.exc? .usr = none ∧ Mode.exc? .sys = none
  ∧ Mode.exc? .fiq = some .fiq ∧ Mode.exc? .irq = some .irq ∧ Mode.exc? .svc = some .svc ∧ Mode.exc? .abt = some .abt
  ∧ Mode.exc? .und = some .und
  ∧ (∀ p : SpsrFile, p.get .fiq = p.fiq ∧ p.get .irq = p.irq ∧ p.get .svc = p.svc ∧ p.get .abt = p.abt ∧ p.get .und = p.und)
  ∧ (∀ i : Fin 15, home .usr i = .usr i ∧ home .sys i = .usr i)
  ∧ (∀ i : Fin 15, i.val < 8 → home .fiq i = .usr i)
  ∧ (∀ k : Fin 7, home .fiq ⟨k.val + 8, by omega⟩ = .fiq k)
  ∧ (∀ i : Fin 15, i.val < 13 → home .irq i = .usr i ∧ home .svc i = .usr i ∧ home .abt i = .usr i ∧ home .und i = .usr i)
  ∧ (∀ k : Fin 2, home .irq ⟨k.val + 13, by omega⟩ = .irq k ∧ home .svc ⟨k.val + 13, by omega⟩ = .svc k
      ∧ home .abt ⟨k.val + 13, by omega⟩ = .abt k ∧ home .und ⟨k.val + 13, by omega⟩ = .und k)
  ∧ (∀ s : State, s.params.ctx = .reference →
      s.exc? = (Mode.ofCode s.cpsr.modeCode).exc?
      ∧ ∀ (i : Reg) (h : i.val < 15),
        s.reg i = s.regs.get (home (Mode.ofCode s.cpsr.modeCode) ⟨i.val, h⟩) ∧ s.userReg i = s.regs.get (.usr ⟨i.val, h⟩))

/-- R63, R64, R65: little-endian halfwords, words and doublewords, and a halfword read of the upper half of a word written, in a memory
of canonical form, which the writes keep; that the accesses of a state with the default memory are those, without side effects; and that
another memory is asked and answers with what nothing fixes, a doubleword by its words, the lower first in a read (the model's choice,
log 21). -/
def Obligations.MemoryIsLittleEndian : Prop :=
  ∀ (m : Memory) (a b : Word) (h : BitVec 16) (v : Word) (d : BitVec 64), m.wf →
    (m.write32 a v).read32 a = v
    ∧ (m.write32 a v).read8 a = v.extractLsb' 0 8 ∧ (m.write32 a v).read8 (a + 1) = v.extractLsb' 8 8
    ∧ (m.write32 a v).read8 (a + 2) = v.extractLsb' 16 8 ∧ (m.write32 a v).read8 (a + 3) = v.extractLsb' 24 8
    ∧ (m.write32 a v).read16 (a + 2) = v.extractLsb' 16 16
    ∧ (m.write64 a d).read64 a = d ∧ (m.write64 a d).read32 a = d.extractLsb' 0 32
    ∧ (m.write64 a d).read32 (a + 4) = d.extractLsb' 32 32
    ∧ (b ≠ a → b ≠ a + 1 → b ≠ a + 2 → b ≠ a + 3 → (m.write32 a v).read8 b = m.read8 b)
    ∧ (m.write32 a v).wf ∧ (m.write64 a d).wf
    ∧ (m.write16 a h).read16 a = h
    ∧ (m.write16 a h).read8 a = h.extractLsb' 0 8 ∧ (m.write16 a h).read8 (a + 1) = h.extractLsb' 8 8
    ∧ (b ≠ a → b ≠ a + 1 → (m.write16 a h).read8 b = m.read8 b)
    ∧ (m.write16 a h).wf
    ∧ ∀ (s : State) (y : Byte) (x : Access),
      (s.params.mem = .flat →
        s.load8 a = s.mem.read8 a ∧ s.load16 a = s.mem.read16 a ∧ s.load32 a = s.mem.read32 a ∧ s.ask x = s
        ∧ s.store8 a y = { s with mem := s.mem.write8 a y } ∧ s.store16 a h = { s with mem := s.mem.write16 a h }
        ∧ s.store32 a v = { s with mem := s.mem.write32 a v })
      ∧ (s.params.mem = .given →
        s.load8 a = (Config.memAnswer (.read .byte a :: s.bus)).setWidth 8
        ∧ s.load16 a = (Config.memAnswer (.read .half a :: s.bus)).setWidth 16
        ∧ s.load32 a = Config.memAnswer (.read .word a :: s.bus) ∧ s.ask x = { s with bus := x :: s.bus }
        ∧ s.store8 a y = { s with bus := .write .byte a (y.setWidth 32) :: s.bus }
        ∧ s.store16 a h = { s with bus := .write .half a (h.setWidth 32) :: s.bus }
        ∧ s.store32 a v = { s with bus := .write .word a v :: s.bus })
      ∧ s.load64 a = (s.ask (.read .word a)).load32 (a + 4) ++ s.load32 a
      ∧ s.ask64 a = (s.ask (.read .word a)).ask (.read .word (a + 4))
      ∧ s.store64 a d = (s.store32 a (d.extractLsb' 0 32)).store32 (a + 4) (d.extractLsb' 32 32)

/-! ### Addressing modes -/

/-- R184-R194: the address, the write-back value and whether it is written, for every index form of modes 2 and 3. -/
def Obligations.IndexForms : Prop :=
  ∀ (s : State) (up : Bool) (n m : Reg) (off2 : Offset2) (off3 : Offset3) (v12 : BitVec 12) (v8 : BitVec 8) (t : ShiftType)
    (amt : BitVec 5),
    offset2Value (.imm v12) s = v12.setWidth 32
    ∧ offset2Value (.reg t amt m) s = (shiftByImmediate t (s.reg m) amt.toNat s.cpsr.c).value
    ∧ offset3Value (.imm v8) s = v8.setWidth 32 ∧ offset3Value (.reg m) s = s.reg m
    ∧ (let off := offset2Value off2 s
       let target := if up = true then s.reg n + off else s.reg n - off
       (resolveMode2 ⟨.offset, up, n, off2⟩ s).addr = target ∧ (resolveMode2 ⟨.offset, up, n, off2⟩ s).wb = false
       ∧ resolveMode2 ⟨.pre, up, n, off2⟩ s = ⟨target, target, true⟩
       ∧ resolveMode2 ⟨.post, up, n, off2⟩ s = ⟨s.reg n, target, true⟩)
    ∧ (let off := offset3Value off3 s
       let target := if up = true then s.reg n + off else s.reg n - off
       (resolveMode3 ⟨.offset, up, n, off3⟩ s).addr = target ∧ (resolveMode3 ⟨.offset, up, n, off3⟩ s).wb = false
       ∧ resolveMode3 ⟨.pre, up, n, off3⟩ s = ⟨target, target, true⟩
       ∧ resolveMode3 ⟨.post, up, n, off3⟩ s = ⟨s.reg n, target, true⟩
       ∧ resolveMode3 ⟨.postW, up, n, off3⟩ s = resolveMode3 ⟨.post, up, n, off3⟩ s)

/-- R196, R197, and R369 for the empty list: the first address and the write-back value of a block transfer. -/
def Obligations.BlockAddresses : Prop :=
  ∀ (a : Mode4) (base : Word),
    let bytes : Word := if a.list = 0 then 0x40 else 4 * BitVec.ofNat 32 (rank a.list 16)
    (a.before = false → a.up = true → blockStart a base = base ∧ blockWbAddr a base = base + bytes)
    ∧ (a.before = true → a.up = true → blockStart a base = base + 4 ∧ blockWbAddr a base = base + bytes)
    ∧ (a.before = false → a.up = false → blockStart a base = base - bytes + 4 ∧ blockWbAddr a base = base - bytes)
    ∧ (a.before = true → a.up = false → blockStart a base = base - bytes ∧ blockWbAddr a base = base - bytes)

/-! ### Shifter operands -/

/-- R173-R178: each bit of the value of an immediate operand and of a register shifted by a constant, and the carry. An amount of 0
stands for 32 in LSR and ASR, and for RRX in ROR. -/
def Obligations.ImmediateShifts : Prop :=
  ∀ (rm : Word) (amt : BitVec 5) (rot : BitVec 4) (imm8 : BitVec 8) (c : Bool) (i : Nat), i < 32 →
    let a := amt.toNat
    let n := if a = 0 then 32 else a
    (rotatedImmediate rot imm8 c).value.getLsbD i = imm8.getLsbD ((i + 2 * rot.toNat) % 32)
    ∧ (rotatedImmediate rot imm8 c).carry = (if rot = 0 then c else (rotatedImmediate rot imm8 c).value.getLsbD 31)
    ∧ (shiftByImmediate .lsl rm a c).value.getLsbD i = (decide (a ≤ i) && rm.getLsbD (i - a))
    ∧ (shiftByImmediate .lsl rm a c).carry = (if a = 0 then c else rm.getLsbD (32 - a))
    ∧ (shiftByImmediate .lsr rm a c).value.getLsbD i = rm.getLsbD (i + n)
    ∧ (shiftByImmediate .lsr rm a c).carry = rm.getLsbD (n - 1)
    ∧ (shiftByImmediate .asr rm a c).value.getLsbD i = rm.getLsbD (min (i + n) 31)
    ∧ (shiftByImmediate .asr rm a c).carry = rm.getLsbD (n - 1)
    ∧ (a ≠ 0 → (shiftByImmediate .ror rm a c).value.getLsbD i = rm.getLsbD ((i + a) % 32)
        ∧ (shiftByImmediate .ror rm a c).carry = rm.getLsbD (a - 1))
    ∧ (a = 0 → (shiftByImmediate .ror rm a c).value.getLsbD i = (if i = 31 then c else rm.getLsbD (i + 1))
        ∧ (shiftByImmediate .ror rm a c).carry = rm.getLsbD 0)

/-- R179-R183: each bit of the value of a register shifted by a register, and the carry, for an amount of 1 or more; an amount of 0
gives the register and the C flag back. -/
def Obligations.RegisterShifts : Prop :=
  ∀ (rm : Word) (n : Nat) (c : Bool) (t : ShiftType) (i : Nat), i < 32 →
    shiftByRegister t rm 0 c = ⟨rm, c⟩
    ∧ (1 ≤ n → n ≤ 255 →
        (shiftByRegister .lsl rm n c).value.getLsbD i = (decide (n ≤ i) && rm.getLsbD (i - n))
        ∧ (shiftByRegister .lsl rm n c).carry = (decide (n ≤ 32) && rm.getLsbD (32 - n))
        ∧ (shiftByRegister .lsr rm n c).value.getLsbD i = rm.getLsbD (i + n)
        ∧ (shiftByRegister .lsr rm n c).carry = rm.getLsbD (n - 1)
        ∧ (shiftByRegister .asr rm n c).value.getLsbD i = rm.getLsbD (min (i + n) 31)
        ∧ (shiftByRegister .asr rm n c).carry = rm.getLsbD (min (n - 1) 31)
        ∧ (shiftByRegister .ror rm n c).value.getLsbD i = rm.getLsbD ((i + n) % 32)
        ∧ (shiftByRegister .ror rm n c).carry = rm.getLsbD ((n - 1) % 32))

/-- R33, R173-R183, R230, R235, R367: what the operands of a data-processing instruction and of MSR read. r15 reads as pc, and in the
register-shift forms as pc + regShiftPcExtra, which is 0 or 4 (R9). -/
def Obligations.OperandsReadPc : Prop :=
  ∀ (s : State) (n m rs : Reg) (t : ShiftType) (amt : BitVec 5) (rot : BitVec 4) (imm8 : BitVec 8),
    let inShift := fun r : Reg => if r = Reg.pc then s.pc + s.params.regShiftPcExtra.bytes else s.reg r
    s.reg Reg.pc = s.pc
    ∧ resolveShifter (.imm rot imm8) s = rotatedImmediate rot imm8 s.cpsr.c
    ∧ resolveShifter (.shiftImm t amt m) s = shiftByImmediate t (s.reg m) amt.toNat s.cpsr.c
    ∧ resolveShifter (.shiftReg t rs m) s
        = shiftByRegister t (inShift m) ((inShift rs).extractLsb' 0 8).toNat s.cpsr.c
    ∧ firstOperand n (.imm rot imm8) s = s.reg n ∧ firstOperand n (.shiftImm t amt m) s = s.reg n
    ∧ firstOperand n (.shiftReg t rs m) s = inShift n
    ∧ resolvePsrOperand (.reg m) s = s.reg m
    ∧ resolvePsrOperand (.imm rot imm8) s = (rotatedImmediate rot imm8 s.cpsr.c).value
    ∧ PcExtra.bytes .zero = 0 ∧ PcExtra.bytes .four = 4

/-! ### Data processing -/

/-- R240-R247, R252-R255 with S = 0, R234: the result is written to Rd, and nothing else changes; r15 is written by a PC write. -/
def Obligations.DataProcessingResults : Prop :=
  ∀ (c : Cond) (n d : Reg) (o : ShifterOperand) (s : State), s.params.unpred = .compute ∨ avoidsPc [n, d] o →
    let a := firstOperand n o s
    let b := (resolveShifter o s).value
    let cin : Word := if s.cpsr.c = true then 1 else 0
    ∀ (i : Instr) (r : Word),
      (i, r) ∈ ([(.and c n d o, a &&& b), (.eor c n d o, a ^^^ b), (.orr c n d o, a ||| b), (.bic c n d o, a &&& ~~~b),
          (.mov c d o, b), (.mvn c d o, ~~~b), (.add c n d o, a + b), (.adc c n d o, a + b + cin), (.sub c n d o, a - b),
          (.sbc c n d o, a - b - (1 - cin)), (.rsb c n d o, b - a), (.rsc c n d o, b - a - (1 - cin))]
          : List (Instr × Word)) →
      exec i s = .next (s.setReg d r)

/-- R240, R241, R252-R255 with S = 1 and d not 15: N and Z of the result, C the shifter carry, V unchanged. -/
def Obligations.LogicalFlags : Prop :=
  ∀ (c : Cond) (n d : Reg) (o : ShifterOperand) (s : State), d ≠ Reg.pc → s.params.unpred = .compute ∨ avoidsPc [n, d] o →
    let a := firstOperand n o s
    let b := (resolveShifter o s).value
    ∀ (i : Instr) (r : Word),
      (i, r) ∈ ([(.ands c n d o, a &&& b), (.eors c n d o, a ^^^ b), (.orrs c n d o, a ||| b), (.bics c n d o, a &&& ~~~b),
          (.movs c d o, b), (.mvns c d o, ~~~b)] : List (Instr × Word)) →
      exec i s = .next (State.setReg (s.withFlags (r.getLsbD 31) (decide (r = 0)) (resolveShifter o s).carry s.cpsr.v) d r)

/-- R231, R242-R247 with S = 1 and d not 15: N and Z of the result; C is the carry out of an addition and no borrow of a
subtraction; V is signed overflow. -/
def Obligations.ArithmeticFlags : Prop :=
  ∀ (c : Cond) (n d : Reg) (o : ShifterOperand) (s : State), d ≠ Reg.pc → s.params.unpred = .compute ∨ avoidsPc [n, d] o →
    let a := firstOperand n o s
    let b := (resolveShifter o s).value
    let cin : Nat := if s.cpsr.c = true then 1 else 0
    ∀ (i : Instr) (carry : Bool) (r : Int),
      (i, carry, r) ∈ ([
          (.adds c n d o, decide (2 ^ 32 ≤ a.toNat + b.toNat), a.toInt + b.toInt),
          (.adcs c n d o, decide (2 ^ 32 ≤ a.toNat + b.toNat + cin), a.toInt + b.toInt + cin),
          (.subs c n d o, decide (b.toNat ≤ a.toNat), a.toInt - b.toInt),
          (.sbcs c n d o, decide (b.toNat + (1 - cin) ≤ a.toNat), a.toInt - b.toInt - (1 - cin : Nat)),
          (.rsbs c n d o, decide (a.toNat ≤ b.toNat), b.toInt - a.toInt),
          (.rscs c n d o, decide (a.toNat + (1 - cin) ≤ b.toNat), b.toInt - a.toInt - (1 - cin : Nat))]
          : List (Instr × Bool × Int)) →
      let res : Word := BitVec.ofInt 32 r
      exec i s = .next (State.setReg (s.withFlags (res.getLsbD 31) (decide (res = 0)) carry (decide (res.toInt ≠ r))) d res)

/-- R248-R251, R236: the compares write the flags of AND, EOR, SUB and ADD, and no register. -/
def Obligations.CompareFlags : Prop :=
  ∀ (c : Cond) (n : Reg) (o : ShifterOperand) (s : State), s.params.unpred = .compute ∨ avoidsPc [n] o →
    let a := firstOperand n o s
    let b := (resolveShifter o s).value
    let sc := (resolveShifter o s).carry
    exec (.tst c n o) s = .next (s.withFlags ((a &&& b).getLsbD 31) (decide (a &&& b = 0)) sc s.cpsr.v)
    ∧ exec (.teq c n o) s = .next (s.withFlags ((a ^^^ b).getLsbD 31) (decide (a = b)) sc s.cpsr.v)
    ∧ exec (.cmp c n o) s = .next (s.withFlags ((a - b).getLsbD 31) (decide (a = b)) (decide (b.toNat ≤ a.toNat))
        (decide ((a - b).toInt ≠ a.toInt - b.toInt)))
    ∧ exec (.cmn c n o) s = .next (s.withFlags ((a + b).getLsbD 31) (decide (a + b = 0)) (decide (2 ^ 32 ≤ a.toNat + b.toNat))
        (decide ((a + b).toInt ≠ a.toInt + b.toInt)))

/-- R233 and, for a restored T of 1, the hand-over of R408 as log 8 composes it: the exception return of the data-processing forms with
S = 1 and d = 15. (Whose SPSR a mode
of another context than R440's has is the model's, log 20.) -/
def Obligations.DataProcessingReturn : Prop :=
  ∀ (c : Cond) (n : Reg) (o : ShifterOperand) (s : State), s.params.unpred = .compute ∨ avoidsPc [n, Reg.pc] o →
    let a := firstOperand n o s
    let b := (resolveShifter o s).value
    let cin : Word := if s.cpsr.c = true then 1 else 0
    ∀ (i : Instr) (r : Word),
      (i, r) ∈ ([(.ands c n Reg.pc o, a &&& b), (.eors c n Reg.pc o, a ^^^ b), (.orrs c n Reg.pc o, a ||| b),
          (.bics c n Reg.pc o, a &&& ~~~b), (.movs c Reg.pc o, b), (.mvns c Reg.pc o, ~~~b), (.adds c n Reg.pc o, a + b),
          (.adcs c n Reg.pc o, a + b + cin), (.subs c n Reg.pc o, a - b), (.sbcs c n Reg.pc o, a - b - (1 - cin)),
          (.rsbs c n Reg.pc o, b - a), (.rscs c n Reg.pc o, b - a - (1 - cin))] : List (Instr × Word)) →
      (∀ m, s.exc? = some m → (s.spsr.get m).t = false →
        exec i s = .next { s with cpsr := s.spsr.get m, pc := r &&& 0xFFFFFFFC, counter := 3 })
      ∧ (∀ m, s.exc? = some m → (s.spsr.get m).t = true →
        exec i s = .next { s with cpsr := s.spsr.get m, pc := r &&& 0xFFFFFFFE, counter := 3 })
      ∧ (s.exc? = none → s.params.unpred = .compute →
        exec i s = .next { s with pc := r &&& 0xFFFFFFFC, counter := 3 })
      ∧ (s.exc? = none → s.params.unpred = .fault →
        exec i s = .fault (.unpredictable .spsrAccessNoSPSR (s.pc - 8)))

/-- R179, R235, R438: under UNPRED = Fault a register-shift form that names r15 halts, with RsPC before PCinRegShift; that a
form whose Rd alone is 15 gives PCinRegShift is the model's reading (log 10). -/
def Obligations.RegisterShiftWithPcHalts : Prop :=
  ∀ (c : Cond) (n d : Reg) (t : ShiftType) (rs m : Reg) (s : State), s.params.unpred = .fault →
    let o : ShifterOperand := .shiftReg t rs m
    ∀ (i : Instr) (used : List Reg),
      (i, used) ∈ ([(.and c n d o, [n, d]), (.ands c n d o, [n, d]), (.eor c n d o, [n, d]), (.eors c n d o, [n, d]),
          (.sub c n d o, [n, d]), (.subs c n d o, [n, d]), (.rsb c n d o, [n, d]), (.rsbs c n d o, [n, d]),
          (.add c n d o, [n, d]), (.adds c n d o, [n, d]), (.adc c n d o, [n, d]), (.adcs c n d o, [n, d]),
          (.sbc c n d o, [n, d]), (.sbcs c n d o, [n, d]), (.rsc c n d o, [n, d]), (.rscs c n d o, [n, d]),
          (.orr c n d o, [n, d]), (.orrs c n d o, [n, d]), (.bic c n d o, [n, d]), (.bics c n d o, [n, d]),
          (.mov c d o, [d]), (.movs c d o, [d]), (.mvn c d o, [d]), (.mvns c d o, [d]),
          (.tst c n o, [n]), (.teq c n o, [n]), (.cmp c n o, [n]), (.cmn c n o, [n])] : List (Instr × List Reg)) →
      (rs = Reg.pc → exec i s = .fault (.unpredictable .rsPC (s.pc - 8)))
      ∧ (rs ≠ Reg.pc → Reg.pc ∈ m :: used → exec i s = .fault (.unpredictable .pcInRegShift (s.pc - 8)))

/-! ### Multiply -/

/-- R282, R283: MUL and MLA. -/
def Obligations.MultiplyResults : Prop :=
  ∀ (c : Cond) (d m rs acc : Reg) (s : State),
    s.params.unpred = .compute ∨ (Reg.pc ∉ [d, m, rs, acc] ∧ d ≠ m) →
    exec (.mul c d m rs) s = .next (s.setReg d (BitVec.ofNat 32 ((s.reg m).toNat * (s.reg rs).toNat)))
    ∧ exec (.mla c d m rs acc) s
        = .next (s.setReg d (BitVec.ofNat 32 ((s.reg m).toNat * (s.reg rs).toNat + (s.reg acc).toNat)))

/-- R281, R282, R283: MULS and MLAS also write N and Z of the result; V is unchanged, and C is some bit that nothing
fixes (log 4). -/
def Obligations.MultiplyFlags : Prop :=
  ∀ (c : Cond) (d m rs acc : Reg) (s : State),
    s.params.unpred = .compute ∨ (Reg.pc ∉ [d, m, rs, acc] ∧ d ≠ m) →
    ∀ (i : Instr) (r : Word),
      (i, r) ∈ ([(.muls c d m rs, BitVec.ofNat 32 ((s.reg m).toNat * (s.reg rs).toNat)),
        (.mlas c d m rs acc, BitVec.ofNat 32 ((s.reg m).toNat * (s.reg rs).toNat + (s.reg acc).toNat))]
        : List (Instr × Word)) →
      ∃ carry : Bool, exec i s = .next
        { State.setReg (s.withFlags (r.getLsbD 31) (decide (r = 0)) carry s.cpsr.v) d r with draws := s.draws + 1 }

/-- R284-R287: the long multiplies. RdLo is written before RdHi. -/
def Obligations.LongMultiplyResults : Prop :=
  ∀ (c : Cond) (dLo dHi m rs : Reg) (s : State),
    s.params.unpred = .compute ∨ (Reg.pc ∉ [dHi, dLo, m, rs] ∧ dHi ≠ dLo ∧ dHi ≠ m ∧ dLo ≠ m) →
    let u : Nat := (s.reg m).toNat * (s.reg rs).toNat
    let p : Int := (s.reg m).toInt * (s.reg rs).toInt
    let acc : Nat := (s.reg dHi).toNat * 2 ^ 32 + (s.reg dLo).toNat
    ∀ (i : Instr) (r : BitVec 64),
      (i, r) ∈ ([(.umull c dLo dHi m rs, BitVec.ofNat 64 u), (.umlal c dLo dHi m rs, BitVec.ofNat 64 (u + acc)),
          (.smull c dLo dHi m rs, BitVec.ofInt 64 p), (.smlal c dLo dHi m rs, BitVec.ofInt 64 (p + acc))]
          : List (Instr × BitVec 64)) →
      exec i s = .next ((s.setReg dLo (r.extractLsb' 0 32)).setReg dHi (r.extractLsb' 32 32))

/-- R281, R284-R287: the long multiplies with S = 1 also write N and Z of the 64-bit result; C and V are some bits that
nothing fixes (log 4). -/
def Obligations.LongMultiplyFlags : Prop :=
  ∀ (c : Cond) (dLo dHi m rs : Reg) (s : State),
    s.params.unpred = .compute ∨ (Reg.pc ∉ [dHi, dLo, m, rs] ∧ dHi ≠ dLo ∧ dHi ≠ m ∧ dLo ≠ m) →
    let u : Nat := (s.reg m).toNat * (s.reg rs).toNat
    let p : Int := (s.reg m).toInt * (s.reg rs).toInt
    let acc : Nat := (s.reg dHi).toNat * 2 ^ 32 + (s.reg dLo).toNat
    ∀ (i : Instr) (r : BitVec 64),
      (i, r) ∈ ([(.umulls c dLo dHi m rs, BitVec.ofNat 64 u), (.umlals c dLo dHi m rs, BitVec.ofNat 64 (u + acc)),
          (.smulls c dLo dHi m rs, BitVec.ofInt 64 p), (.smlals c dLo dHi m rs, BitVec.ofInt 64 (p + acc))]
          : List (Instr × BitVec 64)) →
      ∃ carry overflow : Bool, exec i s = .next
        { State.setReg (State.setReg (s.withFlags (r.getLsbD 63) (decide (r = 0)) carry overflow) dLo (r.extractLsb' 0 32))
            dHi (r.extractLsb' 32 32) with draws := s.draws + 1 }

/-- R288, R339: under UNPRED = Fault, the multiplies and the swaps halt on the operand choices that the rules list, and on no
other. -/
def Obligations.MultiplyAndSwapUnpredictable : Prop :=
  ∀ (c : Cond) (d m rs acc dLo dHi n : Reg) (s : State), s.params.unpred = .fault →
    (∀ i ∈ [Instr.mul c d m rs, .muls c d m rs],
      exec i s = .fault (.unpredictable .mulOperands (s.pc - 8)) ↔ Reg.pc ∈ [d, m, rs] ∨ d = m)
    ∧ (∀ i ∈ [Instr.mla c d m rs acc, .mlas c d m rs acc],
      exec i s = .fault (.unpredictable .mulOperands (s.pc - 8)) ↔ Reg.pc ∈ [d, m, rs, acc] ∨ d = m)
    ∧ (∀ i ∈ [Instr.umull c dLo dHi m rs, .umulls c dLo dHi m rs, .umlal c dLo dHi m rs, .umlals c dLo dHi m rs,
        .smull c dLo dHi m rs, .smulls c dLo dHi m rs, .smlal c dLo dHi m rs, .smlals c dLo dHi m rs],
      exec i s = .fault (.unpredictable .mulOperands (s.pc - 8))
        ↔ Reg.pc ∈ [dHi, dLo, m, rs] ∨ dHi = dLo ∨ dHi = m ∨ dLo = m)
    ∧ (∀ i ∈ [Instr.swp c d m n, .swpb c d m n],
      (exec i s = .fault (.unpredictable .swapPC (s.pc - 8)) ↔ Reg.pc ∈ [n, d, m])
      ∧ (exec i s = .fault (.unpredictable .swapBase (s.pc - 8)) ↔ Reg.pc ∉ [n, d, m] ∧ (n = m ∨ n = d)))

/-! ### Single, extended and swap transfers -/

/-- R331, R333, R335, R337: the loads of a word and of a byte. The base is written back before Rd is written. `load32`, `load8` and
`ask` are the accesses of `MemoryIsLittleEndian` (another memory than the default is the model's, log 21). -/
def Obligations.SingleLoads : Prop :=
  ∀ (c : Cond) (d : Reg) (a : Mode2) (s : State),
    let ea := resolveMode2 a s
    let low := (ea.addr.extractLsb' 0 2).toNat
    let aligned := ea.addr &&& 0xFFFFFFFC
    let back := fun u : State => if ea.wb = true then u.setReg a.n ea.wbAddr else u
    let word : State := (back (s.ask (.read .word aligned))).setReg d ((s.load32 aligned).rotateRight (8 * low))
    let byte : State := (back (s.ask (.read .byte ea.addr))).setReg d ((s.load8 ea.addr).setWidth 32)
    (s.params.unpred = .compute ∨ regular2 false d a → s.params.misalign = .arm7tdmi ∨ low = 0 →
      exec (.ldr c d a) s = .next word ∧ (a.ix = .post → exec (.ldrt c d ⟨a.up, a.n, a.off⟩) s = .next word))
    ∧ (s.params.unpred = .compute ∨ regular2 true d a →
      exec (.ldrb c d a) s = .next byte ∧ (a.ix = .post → exec (.ldrbt c d ⟨a.up, a.n, a.off⟩) s = .next byte))

/-- R331, R334, R336, R337: the stores of a word and of a byte. The value is read before the base is written back; r15 stores as
pc + pcStoreExtra. `store32` and `store8` are the accesses of `MemoryIsLittleEndian` (another memory than the default is the model's, log 21). -/
def Obligations.SingleStores : Prop :=
  ∀ (c : Cond) (d : Reg) (a : Mode2) (s : State),
    let ea := resolveMode2 a s
    let low := (ea.addr.extractLsb' 0 2).toNat
    let value := if d = Reg.pc then s.pc + s.params.pcStoreExtra.bytes else s.reg d
    let back := fun u : State => if ea.wb = true then u.setReg a.n ea.wbAddr else u
    let word : State := back (s.store32 (ea.addr &&& 0xFFFFFFFC) value)
    let byte : State := back (s.store8 ea.addr (value.extractLsb' 0 8))
    (s.params.unpred = .compute ∨ regular2 false d a → s.params.misalign = .arm7tdmi ∨ low = 0 →
      exec (.str c d a) s = .next word ∧ (a.ix = .post → exec (.strt c d ⟨a.up, a.n, a.off⟩) s = .next word))
    ∧ (s.params.unpred = .compute ∨ regular2 true d a →
      exec (.strb c d a) s = .next byte ∧ (a.ix = .post → exec (.strbt c d ⟨a.up, a.n, a.off⟩) s = .next byte))

/-- R332, R195, R438: under UNPRED = Fault, the single transfers halt on the cases of R332, in its order. -/
def Obligations.SingleTransferUnpredictable : Prop :=
  ∀ (c : Cond) (d : Reg) (a : Mode2) (s : State), s.params.unpred = .fault →
    ∀ (i : Instr) (load byte : Bool),
      ((i, load, byte) ∈ ([(.ldr c d a, true, false), (.str c d a, false, false), (.ldrb c d a, true, true),
          (.strb c d a, false, true)] : List (Instr × Bool × Bool))
        ∨ (a.ix = .post ∧ (i, load, byte) ∈ ([(.ldrt c d ⟨a.up, a.n, a.off⟩, true, false),
          (.strt c d ⟨a.up, a.n, a.off⟩, false, false), (.ldrbt c d ⟨a.up, a.n, a.off⟩, true, true),
          (.strbt c d ⟨a.up, a.n, a.off⟩, false, true)] : List (Instr × Bool × Bool)))) →
      let wb := a.ix ≠ .offset
      let offPc := ∃ t amt, a.off = .reg t amt Reg.pc
      let halts := fun reason => exec i s = .fault (.unpredictable reason (s.pc - 8))
      (wb ∧ a.n = Reg.pc → halts .writeBackPC)
      ∧ (¬(wb ∧ a.n = Reg.pc) → offPc → halts .offsetPC)
      ∧ (¬(wb ∧ a.n = Reg.pc) → ¬offPc → wb ∧ a.n = d →
          halts (if load = true then .loadWriteBackBase else .storeWriteBackBase))
      ∧ (¬(wb ∧ a.n = Reg.pc) → ¬offPc → ¬(wb ∧ a.n = d) → byte = true ∧ d = Reg.pc → halts .transferPC)

/-- R301, R303-R306: the store and the load of a halfword, and the loads of a signed byte and of a signed halfword, by the accesses of
`MemoryIsLittleEndian` (another memory than the default is the model's, log 21). -/
def Obligations.HalfwordAndSignedTransfers : Prop :=
  ∀ (c : Cond) (d : Reg) (a : Mode3) (s : State), s.params.unpred = .compute ∨ regular3 d a →
    let ea := resolveMode3 a s
    let odd := ea.addr.getLsbD 0
    let aligned := ea.addr &&& 0xFFFFFFFE
    let half := s.load16 aligned
    let byte : Word := (s.load8 ea.addr).signExtend 32
    let value := if d = Reg.pc then s.pc + s.params.pcStoreExtra.bytes else s.reg d
    let back := fun u : State => if ea.wb = true then u.setReg a.n ea.wbAddr else u
    let loaded := fun (x : Access) (v : Word) => (back (s.ask x)).setReg d v
    exec (.ldrsb c d a) s = .next (loaded (.read .byte ea.addr) byte)
    ∧ (odd = false → exec (.ldrh c d a) s = .next (loaded (.read .half aligned) (half.setWidth 32))
        ∧ exec (.ldrsh c d a) s = .next (loaded (.read .half aligned) (half.signExtend 32)))
    ∧ (odd = true → s.params.misalign = .arm7tdmi →
        exec (.ldrh c d a) s
          = .next (loaded (.read .half aligned) (half.extractLsb' 0 8 ++ 0#16 ++ half.extractLsb' 8 8))
        ∧ exec (.ldrsh c d a) s = .next (loaded (.read .byte ea.addr) byte))
    ∧ (odd = false ∨ s.params.misalign = .arm7tdmi →
        exec (.strh c d a) s = .next (back (s.store16 aligned (value.extractLsb' 0 16))))

/-- R301, R307, R308: the doubleword transfers. The low word is at the lower address and belongs to Rd, the high word to
register d + 1, mod 16. Of the two words of an LDRD, a memory other than the default is asked the lower one first (the model's choice,
log 21). -/
def Obligations.DoublewordTransfers : Prop :=
  ∀ (c : Cond) (d : Reg) (a : Mode3) (s : State),
    let ea := resolveMode3 a s
    let addr := ea.addr &&& 0xFFFFFFFC
    let value := fun r : Reg => if r = Reg.pc then s.pc + s.params.pcStoreExtra.bytes else s.reg r
    let back := fun u : State => if ea.wb = true then u.setReg a.n ea.wbAddr else u
    s.params.misalign = .arm7tdmi ∨ ea.addr.extractLsb' 0 2 = 0 →
    (s.params.unpred = .compute ∨ regularPair true d a →
      exec (.ldrd c d a) s = .next
        (let s1 := s.ask (.read .word addr)
         State.setReg ((back (s1.ask (.read .word (addr + 4)))).setReg d (s.load32 addr)) (d + 1) (s1.load32 (addr + 4))))
    ∧ (s.params.unpred = .compute ∨ regularPair false d a →
      exec (.strd c d a) s = .next (back ((s.store32 addr (value d)).store32 (addr + 4) (value (d + 1)))))

/-- R302, R189, R195, R438: under UNPRED = Fault, the extended transfers halt on the cases of R302, in its order; a P = 0, W = 1
form counts as writing back (log 9). -/
def Obligations.ExtendedTransferUnpredictable : Prop :=
  ∀ (c : Cond) (d : Reg) (a : Mode3) (s : State), s.params.unpred = .fault →
    ∀ (i : Instr) (load dword : Bool),
      (i, load, dword) ∈ ([(.ldrh c d a, true, false), (.ldrsb c d a, true, false), (.ldrsh c d a, true, false),
        (.strh c d a, false, false), (.ldrd c d a, true, true), (.strd c d a, false, true)] : List (Instr × Bool × Bool)) →
      let wb := a.ix ≠ .offset
      let onBase := a.n = d ∨ (load = true ∧ dword = true ∧ a.n = d + 1)
      let halts := fun reason => exec i s = .fault (.unpredictable reason (s.pc - 8))
      (wb ∧ a.n = Reg.pc → halts .writeBackPC)
      ∧ (¬(wb ∧ a.n = Reg.pc) → a.ix = .postW → halts .postIndexWriteBack)
      ∧ (¬(wb ∧ a.n = Reg.pc) → a.ix ≠ .postW → a.off = .reg Reg.pc → halts .offsetPC)
      ∧ (¬(wb ∧ a.n = Reg.pc) → a.ix ≠ .postW → a.off ≠ .reg Reg.pc → wb ∧ onBase →
          halts (if load = true then .loadWriteBackBase else .storeWriteBackBase))
      ∧ (¬(wb ∧ a.n = Reg.pc) → a.ix ≠ .postW → a.off ≠ .reg Reg.pc → ¬(wb ∧ onBase) → d = Reg.pc → halts .transferPC)
      ∧ (¬(wb ∧ a.n = Reg.pc) → a.ix ≠ .postW → a.off ≠ .reg Reg.pc → ¬(wb ∧ onBase) → d ≠ Reg.pc →
          dword = true ∧ (d.val % 2 = 1 ∨ d = Reg.lr) → halts .doubleRegPair)

/-- R67, R68, R438: under misalign = Fault, a transfer that is no UNPREDICTABLE case, or any transfer under Compute, halts on an
address that is not aligned to its width. -/
def Obligations.MisalignedTransfersHalt : Prop :=
  ∀ (c : Cond) (d m n : Reg) (a2 : Mode2) (a3 : Mode3) (a4 : Mode4) (s : State), s.params.misalign = .fault →
    let e2 := (resolveMode2 a2 s).addr
    let e3 := (resolveMode3 a3 s).addr
    let e4 := blockStart a4 (s.reg a4.n)
    let goesOn := fun regular : Prop => s.params.unpred = .compute ∨ regular
    let halts := fun (i : Instr) (ea : Word) (w : Width) => exec i s = .fault (.misalignedAccess ea w (s.pc - 8))
    (e2.extractLsb' 0 2 ≠ 0 → goesOn (regular2 false d a2) → halts (.ldr c d a2) e2 .word ∧ halts (.str c d a2) e2 .word
      ∧ (a2.ix = .post → halts (.ldrt c d ⟨a2.up, a2.n, a2.off⟩) e2 .word
          ∧ halts (.strt c d ⟨a2.up, a2.n, a2.off⟩) e2 .word))
    ∧ (e3.getLsbD 0 = true → goesOn (regular3 d a3) →
        halts (.ldrh c d a3) e3 .half ∧ halts (.ldrsh c d a3) e3 .half ∧ halts (.strh c d a3) e3 .half)
    ∧ (e3.extractLsb' 0 2 ≠ 0 → goesOn (regularPair true d a3) → halts (.ldrd c d a3) e3 .dword)
    ∧ (e3.extractLsb' 0 2 ≠ 0 → goesOn (regularPair false d a3) → halts (.strd c d a3) e3 .dword)
    ∧ ((s.reg n).extractLsb' 0 2 ≠ 0 → goesOn (regularSwap d m n) → halts (.swp c d m n) (s.reg n) .word)
    ∧ (e4.extractLsb' 0 2 ≠ 0 → goesOn (regularLdm a4 s) → halts (.ldm c a4) e4 .word)
    ∧ (e4.extractLsb' 0 2 ≠ 0 → goesOn (regularStm a4) → halts (.stm c a4) e4 .word)

/-- R340, R341: the swaps. Memory is read, then gets the old Rm, and Rd gets what was read, by the accesses of
`MemoryIsLittleEndian` (another memory than the default is the model's, log 21). -/
def Obligations.Swaps : Prop :=
  ∀ (c : Cond) (d m n : Reg) (s : State), s.params.unpred = .compute ∨ regularSwap d m n →
    let a := s.reg n
    let low := (a.extractLsb' 0 2).toNat
    let aligned := a &&& 0xFFFFFFFC
    (s.params.misalign = .arm7tdmi ∨ low = 0 →
      exec (.swp c d m n) s = .next (((s.ask (.read .word aligned)).store32 aligned (s.reg m)).setReg d
        ((s.load32 aligned).rotateRight (8 * low))))
    ∧ exec (.swpb c d m n) s = .next (((s.ask (.read .byte a)).store8 a ((s.reg m).extractLsb' 0 8)).setReg d
        ((s.load8 a).setWidth 32))

/-! ### Block transfers -/

/-- R369, R370: STM. The register of the list with `rank` registers below it is stored 4 times `rank` above the first address; the
empty list stores r15 alone. With a memory other than the default, these are the accesses it is asked, in this order (log 21). -/
def Obligations.StoreMultiple : Prop :=
  ∀ (c : Cond) (a : Mode4) (s : State), s.mem.wf → s.params.unpred = .compute ∨ regularStm a →
    let wbAddr := blockWbAddr a (s.reg a.n)
    let start := blockStart a (s.reg a.n)
    let pcValue := s.pc + s.params.pcStoreExtra.bytes
    let value := fun i : Reg =>
      if h : i.val < 15 then
        if a.s = true then s.regs.get (s.userCellOf ⟨i.val, h⟩)
        else if i = a.n ∧ a.w = true ∧ rank a.list i.val ≠ 0 then wbAddr
        else s.reg i
      else pcValue
    s.params.misalign = .arm7tdmi ∨ start.extractLsb' 0 2 = 0 →
    let place := fun i : Nat => (start &&& 0xFFFFFFFC) + 4 * BitVec.ofNat 32 (rank a.list i)
    ∃ u : State, exec (.stm c a) s = .next (if a.w = true then u.setReg a.n wbAddr else u)
      ∧ (s.params.mem = .flat → u = { s with mem := u.mem }
          ∧ (∀ i : Reg, a.list.getLsbD i.val = true → u.mem.read32 (place i.val) = value i)
          ∧ (a.list = 0 → u.mem.read32 (start &&& 0xFFFFFFFC) = pcValue))
      ∧ (s.params.mem = .given → ∃ writes : List Access, u = { s with bus := writes.reverse ++ s.bus }
          ∧ (a.list ≠ 0 → writes.length = rank a.list 16)
          ∧ (∀ i : Reg, a.list.getLsbD i.val = true →
              writes[rank a.list i.val]? = some (.write .word (place i.val) (value i)))
          ∧ (a.list = 0 → writes = [.write .word (start &&& 0xFFFFFFFC) pcValue]))

/-- R371, and R369 for the empty list: LDM. Every register of the list gets its word, in the User bank when S = 1 and r15 is not
transferred; r15 is a PC write, with CPSR restored when S = 1 (a restored T of 1 is the hand-over of log 8); the base is written back
where the list does not load it. That CPSR is restored also where the list is empty and S = 1 is the model's choice (log 19), and so is
what a memory other than the default is asked and answers (log 21). -/
def Obligations.LoadMultiple : Prop :=
  ∀ (c : Cond) (a : Mode4) (s : State),
    let hasPc := a.list.getLsbD 15 = true ∨ a.list = 0
    s.params.unpred = .compute ∨ regularLdm a s →
    let start := blockStart a (s.reg a.n)
    let aligned := start &&& 0xFFFFFFFC
    let word := fun i : Nat =>
      match s.params.mem with
      | .flat => s.mem.read32 (aligned + 4 * BitVec.ofNat 32 (rank a.list i))
      | .given => Config.memAnswer (wordReads s.bus aligned (rank a.list i + 1))
    s.params.misalign = .arm7tdmi ∨ start.extractLsb' 0 2 = 0 →
    ∃ t : State, exec (.ldm c a) s = .next t ∧ t.mem = s.mem ∧ t.spsr = s.spsr ∧ t.draws = s.draws
      ∧ (s.params.mem = .flat → t.bus = s.bus)
      ∧ (s.params.mem = .given → t.bus = wordReads s.bus aligned (if a.list = 0 then 1 else rank a.list 16))
      ∧ (∀ (bus : List Access) (n : Nat), wordReads bus aligned 0 = bus
          ∧ wordReads bus aligned (n + 1) = .read .word (aligned + 4 * BitVec.ofNat 32 n) :: wordReads bus aligned n)
      ∧ (∀ i : Fin 15, a.list.getLsbD i.val = true →
          t.regs.get (if a.s = true ∧ ¬hasPc then s.userCellOf i else s.cellOf i) = word i.val)
      ∧ (∀ h : a.n.val < 15, a.w = true → a.list.getLsbD a.n.val = false →
          (a.s = true → ¬hasPc → s.params.ctx = .reference) →
          t.regs.get (s.cellOf ⟨a.n.val, h⟩) = blockWbAddr a (s.reg a.n))
      ∧ (hasPc → t.counter = 3)
      ∧ (hasPc → a.s = false ∨ s.exc? = none → t.pc = word 15 &&& 0xFFFFFFFC ∧ t.cpsr = s.cpsr)
      ∧ (∀ m, hasPc → a.s = true → s.exc? = some m →
          t.cpsr = s.spsr.get m ∧ t.pc = word 15 &&& (if (s.spsr.get m).t = true then 0xFFFFFFFE else 0xFFFFFFFC))
      ∧ (¬hasPc → t.cpsr = s.cpsr)
      ∧ (¬hasPc → ¬(a.w = true ∧ a.n = Reg.pc) → t.pc = s.pc ∧ t.counter = s.counter)
      ∧ (¬hasPc → a.w = true → a.n = Reg.pc → t.pc = blockWbAddr a s.pc &&& 0xFFFFFFFC ∧ t.counter = 3)

/-- R369, R370, R371: under UNPRED = Fault, the block transfers halt on the cases of the rules, those of R369 in its order (R438). That
StoreBaseNotFirst (R370) and LoadBaseInList (R371) are reported only where no case of R369 holds is the model's choice (log 22). (Whose
SPSR a mode of another context than R440's has is the model's, log 20.) -/
def Obligations.BlockTransferUnpredictable : Prop :=
  ∀ (c : Cond) (a : Mode4) (s : State), s.params.unpred = .fault →
    let hasPc := a.list.getLsbD 15 = true
    let inList := a.list.getLsbD a.n.val = true
    let halts := fun (i : Instr) reason => exec i s = .fault (.unpredictable reason (s.pc - 8))
    (∀ i ∈ [Instr.stm c a, .ldm c a],
      (a.list = 0 → halts i .emptyList) ∧ (a.list ≠ 0 → a.n = Reg.pc → halts i .basePC))
    ∧ (a.list ≠ 0 → a.n ≠ Reg.pc →
        (a.s = true ∧ a.w = true → halts (.stm c a) .userBankWriteBack)
        ∧ (¬(a.s = true ∧ a.w = true) → a.w = true ∧ inList ∧ rank a.list a.n.val ≠ 0 →
            halts (.stm c a) .storeBaseNotFirst)
        ∧ (a.s = true ∧ a.w = true ∧ ¬hasPc → halts (.ldm c a) .userBankWriteBack)
        ∧ (a.s = true ∧ hasPc ∧ s.exc? = none → halts (.ldm c a) .spsrAccessNoSPSR)
        ∧ (¬(a.s = true ∧ a.w = true ∧ ¬hasPc) → ¬(a.s = true ∧ hasPc ∧ s.exc? = none) → a.w = true ∧ inList →
            halts (.ldm c a) .loadBaseInList))

/-! ### Branches and status registers -/

/-- R361, R362, R363: B and BL. The target is A + 8 + 4 times the offset, with A = pc - 8 the executing address. -/
def Obligations.Branches : Prop :=
  ∀ (c : Cond) (imm24 : BitVec 24) (s : State), s.pc.extractLsb' 0 2 = 0 →
    let target := s.pc + 4 * imm24.signExtend 32
    exec (.b c imm24) s = .next { s with pc := target, counter := 3 }
    ∧ exec (.bl c imm24) s = .next { s.setReg 14 (s.pc - 8 + 4) with pc := target, counter := 3 }

/-- R364 and, for a target with bit 0 set, the hand-over of R408 as log 8 composes it: BX. -/
def Obligations.BranchExchange : Prop :=
  ∀ (c : Cond) (m : Reg) (s : State),
    let t := s.reg m
    (t.getLsbD 0 = true → ∃ p : Psr, exec (.bx c m) s = .next { s with cpsr := p, pc := t &&& 0xFFFFFFFE, counter := 3 }
      ∧ p.t = true ∧ p.n = s.cpsr.n ∧ p.z = s.cpsr.z ∧ p.c = s.cpsr.c ∧ p.v = s.cpsr.v
      ∧ ∀ k, k ≠ 5 → p.rest.getLsbD k = s.cpsr.rest.getLsbD k)
    ∧ (t.getLsbD 0 = false → t.getLsbD 1 = false ∨ s.params.unpred = .compute →
        exec (.bx c m) s = .next { s with pc := t &&& 0xFFFFFFFC, counter := 3 })
    ∧ (t.getLsbD 0 = false → t.getLsbD 1 = true → s.params.unpred = .fault →
        exec (.bx c m) s = .fault (.unpredictable .bxMisaligned (s.pc - 8)))

/-- R37, R366: MRS. Rd gets the status register as a word: the flags in bits 31:28, I, F and T in bits 7, 6 and 5, and the mode in
bits 4:0. In a mode with no SPSR, MRS of SPSR gives Rd a
value that nothing fixes (log 4). (Whose SPSR a mode
of another context than R440's has is the model's, log 20.) -/
def Obligations.MoveFromStatus : Prop :=
  ∀ (c : Cond) (d : Reg) (s : State),
    (s.params.unpred = .compute ∨ d ≠ Reg.pc →
      exec (.mrsCpsr c d) s = .next (s.setReg d s.cpsr.toWord)
      ∧ ∀ m, s.exc? = some m → exec (.mrsSpsr c d) s = .next (s.setReg d (s.spsr.get m).toWord))
    ∧ (s.exc? = none → s.params.unpred = .compute →
        ∃ v : Word, exec (.mrsSpsr c d) s = .next (State.setReg { s with draws := s.draws + 1 } d v))
    ∧ (s.params.unpred = .fault → exec (.mrsCpsr c Reg.pc) s = .fault (.unpredictable .transferPC (s.pc - 8)))
    ∧ (s.params.unpred = .fault → s.exc? = none →
        exec (.mrsSpsr c d) s = .fault (.unpredictable .spsrAccessNoSPSR (s.pc - 8)))
    ∧ (s.params.unpred = .fault → s.exc? ≠ none →
        exec (.mrsSpsr c Reg.pc) s = .fault (.unpredictable .transferPC (s.pc - 8)))
    ∧ ∀ p : Psr, p.toWord.getLsbD 31 = p.n ∧ p.toWord.getLsbD 30 = p.z ∧ p.toWord.getLsbD 29 = p.c ∧ p.toWord.getLsbD 28 = p.v
        ∧ p.toWord.getLsbD 7 = p.i ∧ p.toWord.getLsbD 6 = p.f ∧ p.toWord.getLsbD 5 = p.t
        ∧ p.toWord.extractLsb' 0 5 = p.modeCode ∧ p.toWord.extractLsb' 0 28 = p.rest ∧ Psr.ofWord p.toWord = p

/-- R367: MSR. Each bit that the mask selects and the mode may write is taken from the operand, and every other bit stays: always
the flags, in the reference context never bits 7:0 in User mode; which of the other bits a mode may write is the model's choice (log 6, and
log 20 for another context). -/
def Obligations.MoveToStatus : Prop :=
  ∀ (c : Cond) (mask : BitVec 4) (o : PsrOperand) (s : State),
    let v := resolvePsrOperand o s
    let writable := fun k : Nat =>
      decide (28 ≤ k) || (match s.params.ctx with
        | .reference =>
          if s.mode = .usr then decide (8 ≤ k) && s.params.userPsrBits.getLsbD k else s.params.privPsrBits.getLsbD k
        | .given => (Config.ctxCpsrBits s.cpsr.modeCode).getLsbD k)
    let savedWritable := fun k : Nat =>
      match s.params.ctx with
      | .reference => true
      | .given => (Config.ctxSpsrBits s.cpsr.modeCode).getLsbD k
    (s.params.unpred = .compute ∨ ¬(mask.getLsbD 0 = true ∧ v.getLsbD 5 ≠ s.thumb) →
      ∃ p : Psr, exec (.msrCpsr c mask o) s = .next { s with cpsr := p }
        ∧ ∀ k, k < 32 → p.toWord.getLsbD k
            = (if mask.getLsbD (k / 8) && writable k then v.getLsbD k else s.cpsr.toWord.getLsbD k))
    ∧ (s.params.unpred = .fault → mask.getLsbD 0 = true → v.getLsbD 5 ≠ s.thumb →
        exec (.msrCpsr c mask o) s = .fault (.unpredictable .msrThumbBit (s.pc - 8)))
    ∧ (∀ m, s.exc? = some m →
        ∃ p : Psr, exec (.msrSpsr c mask o) s = .next { s with spsr := s.spsr.set m p }
          ∧ ∀ k, k < 32 → p.toWord.getLsbD k
              = (if mask.getLsbD (k / 8) && savedWritable k then v.getLsbD k else (s.spsr.get m).toWord.getLsbD k))
    ∧ (s.exc? = none → s.params.unpred = .compute → exec (.msrSpsr c mask o) s = .next s)
    ∧ (s.exc? = none → s.params.unpred = .fault →
        exec (.msrSpsr c mask o) s = .fault (.unpredictable .spsrAccessNoSPSR (s.pc - 8)))

/-! ### Exceptions -/

/-- R375, R377, R407, R433: SWI and UNDEFINED. The reference entries save CPSR and A + 4 in the new mode, set T = 0 and I = 1, keep F
and the flags, and write the vector to pc; with no entry function the machine halts. The SPSR and the r14 of the new mode are those of
R440 in the reference context, and in another context those that it gives the mode code (log 20). -/
def Obligations.TrapEntries : Prop :=
  ∀ (c : Cond) (comment : BitVec 24) (bits : BitVec 28) (s : State),
    let entered := fun (p : Psr) (mode : BitVec 5) => p.modeCode = mode ∧ p.t = false ∧ p.i = true ∧ p.f = s.cpsr.f
      ∧ p.n = s.cpsr.n ∧ p.z = s.cpsr.z ∧ p.c = s.cpsr.c ∧ p.v = s.cpsr.v
      ∧ p.rest.extractLsb' 8 20 = s.cpsr.rest.extractLsb' 8 20
    let link := s.pc - 8 + 4
    let saved := fun mode : BitVec 5 =>
      match spsrIn s.params.ctx mode with
      | some m => s.spsr.set m s.cpsr
      | none => s.spsr
    let linked := fun mode : BitVec 5 => s.regs.set (cellIn s.params.ctx mode 14) link
    (s.params.swiEntry = .reference → ∃ p, entered p 0x13 ∧ exec (.swi c comment) s = .next
      { s with cpsr := p, spsr := saved 0x13, regs := linked 0x13, pc := 0x00000008, counter := 3 })
    ∧ (s.params.undefEntry = .reference → ∃ p, entered p 0x1B ∧ exec (.undefined c bits) s = .next
      { s with cpsr := p, spsr := saved 0x1B, regs := linked 0x1B, pc := 0x00000004, counter := 3 })
    ∧ (s.params.ctx = .reference →
        saved 0x13 = { s.spsr with svc := s.cpsr } ∧ linked 0x13 = { s.regs with svc := s.regs.svc.set 1 link }
        ∧ saved 0x1B = { s.spsr with und := s.cpsr } ∧ linked 0x1B = { s.regs with und := s.regs.und.set 1 link })
    ∧ (s.params.swiEntry = .absent → exec (.swi c comment) s = .fault (.softwareInterrupt comment (s.pc - 8)))
    ∧ (s.params.undefEntry = .absent →
        exec (.undefined c bits) s = .fault (.undefinedInstruction (c.bits ++ bits) (s.pc - 8)))

/-- R415, R436: an interrupt delivered between steps, by the reference entries, with the address of the next instruction plus 4 as the
link; with no entry function the machine halts (R9). An entry function other than the reference, of an interrupt or of a trap (R433), is
handed the CPU context, what it is about and the address; that it leaves nothing but a CPU context and a PC write, if any, is the model's
choice (log 18). The SPSR and the r14 of the new mode are those of R440 in the reference context, and in another context those that it gives
the mode code (log 20). -/
def Obligations.InterruptEntries : Prop :=
  ∀ s : State,
    let addr := if s.counter = 3 then s.pc else if s.counter = 0 then s.pc - 8 else s.pc - 4
    let entered := fun (p : Psr) (mode : BitVec 5) (fiqOff : Bool) => p.modeCode = mode ∧ p.t = false ∧ p.i = true ∧ p.f = fiqOff
      ∧ p.n = s.cpsr.n ∧ p.z = s.cpsr.z ∧ p.c = s.cpsr.c ∧ p.v = s.cpsr.v
      ∧ p.rest.extractLsb' 8 20 = s.cpsr.rest.extractLsb' 8 20
    let saved := fun mode : BitVec 5 =>
      match spsrIn s.params.ctx mode with
      | some m => s.spsr.set m s.cpsr
      | none => s.spsr
    let linked := fun mode : BitVec 5 => s.regs.set (cellIn s.params.ctx mode 14) (addr + 4)
    let ctx : Context := ⟨s.regs, s.cpsr, s.spsr⟩
    let left := fun e : Entered =>
      let u : State := { s with regs := e.context.regs, cpsr := e.context.cpsr, spsr := e.context.spsr }
      match e.pc with
      | some v => { u with pc := v &&& 0xFFFFFFFC, counter := 3 }
      | none => u
    (s.params.interruptEntry = .reference →
      (∃ p, entered p 0x12 s.cpsr.f ∧ deliverInterrupt .irq s = .next
        { s with cpsr := p, spsr := saved 0x12, regs := linked 0x12, pc := 0x00000018, counter := 3 })
      ∧ (∃ p, entered p 0x11 true ∧ deliverInterrupt .fiq s = .next
        { s with cpsr := p, spsr := saved 0x11, regs := linked 0x11, pc := 0x0000001C, counter := 3 }))
    ∧ (s.params.ctx = .reference →
        saved 0x12 = { s.spsr with irq := s.cpsr } ∧ linked 0x12 = { s.regs with irq := s.regs.irq.set 1 (addr + 4) }
        ∧ saved 0x11 = { s.spsr with fiq := s.cpsr } ∧ linked 0x11 = { s.regs with fiq := s.regs.fiq.set 6 (addr + 4) })
    ∧ (∀ k, s.params.interruptEntry = .absent → deliverInterrupt k s = .fault (.interrupt k addr))
    ∧ (∀ k, s.params.interruptEntry = .given → deliverInterrupt k s = .next (left (Config.interruptEntry ctx k addr)))
    ∧ (∀ c comment, s.params.swiEntry = .given →
        exec (.swi c comment) s = .next (left (Config.swiEntry ctx comment (s.pc - 8))))
    ∧ (∀ c bits, s.params.undefEntry = .given →
        exec (.undefined c bits) s = .next (left (Config.undefEntry ctx (c.bits ++ bits) (s.pc - 8))))

/-- R434: `MOVS pc, lr` after the reference entry of SWI or UNDEFINED, in any state of the context that still holds the registers and the
status registers of the entry, restores the CPSR of the trapping instruction and goes on behind it: in the reference context, and in another
(log 20) where the mode entered has an SPSR. -/
def Obligations.TrapReturnRestoresTheCaller : Prop :=
  ∀ (i : Instr) (c c' : Cond) (comment : BitVec 24) (bits : BitVec 28) (s t u : State),
    (i = .swi c comment ∧ s.params.swiEntry = .reference) ∨ (i = .undefined c bits ∧ s.params.undefEntry = .reference) →
    s.params.ctx = .reference ∨ t.exc? ≠ none →
    s.thumb = false → exec i s = .next t → u.params.ctx = s.params.ctx →
    u.regs = t.regs → u.cpsr = t.cpsr → u.spsr = t.spsr →
    exec (.movs c' Reg.pc (.shiftImm .lsl 0 Reg.lr)) u
      = .next { u with cpsr := s.cpsr, pc := (s.pc - 8 + 4) &&& 0xFFFFFFFC, counter := 3 }
end

