-- ==== Sys2Proof/Laws/Encoding.lean ====
section
/-! SUPPORT. Laws of the encoder: taking a field out of concatenated fields, and the cell of the dispatch table in which the word of
each format lands. -/

namespace Sys2Proof.Laws

/-- A field that lies above the last part of a word. -/
theorem extract_append_hi {v w : Nat} (hi : BitVec v) (lo : BitVec w) (start len : Nat) (h : w ≤ start) :
    BitVec.extractLsb' start len (hi ++ lo) = BitVec.extractLsb' (start - w) len hi := by
  rw [BitVec.extractLsb'_append_eq_ite, dif_neg (by omega)]

/-- A field that lies within the last part of a word. -/
theorem extract_append_lo {v w : Nat} (hi : BitVec v) (lo : BitVec w) (start len : Nat) (h : start + len ≤ w) (h0 : start < w) :
    BitVec.extractLsb' start len (hi ++ lo) = BitVec.extractLsb' start len lo := by
  rw [BitVec.extractLsb'_append_eq_ite, dif_pos h0, dif_pos h]

/-- A field that is a whole part. -/
theorem extract_all {w : Nat} (x : BitVec w) : BitVec.extractLsb' 0 w x = x := by simp

/-- A field of a field. -/
theorem extract_extract {w : Nat} (x : BitVec w) (a n b m : Nat) (h : b + m ≤ n) :
    BitVec.extractLsb' b m (BitVec.extractLsb' a n x) = BitVec.extractLsb' (a + b) m x := by
  ext i hi
  simp only [BitVec.getElem_extractLsb', BitVec.getLsbD_extractLsb', Nat.add_assoc]
  rw [decide_eq_true (show b + i < n by omega), Bool.true_and]

@[simp] theorem cond_ofBits_bits (c : Cond) : Cond.ofBits c.bits = c := by cases c <;> rfl

@[simp] theorem shiftType_ofBits_bits (t : ShiftType) : ShiftType.ofBits t.bits = t := by cases t <;> rfl

/-! ### Cells -/

/-- The miscellaneous space is no data-processing row: TST, TEQ, CMP and CMN have S = 1 (R106). -/
def isDpOp (opc : BitVec 4) (s : Bool) : Bool := opc.extractLsb' 2 2 != 2 || s

set_option maxRecDepth 100000 in
theorem table_dp_imm : ∀ (opc : BitVec 4) (s : Bool) (col : BitVec 4), isDpOp opc s = true →
    table (dpRow true opc s) col = (dpHandler opc s, .immRot) := by decide

set_option maxRecDepth 100000 in
theorem table_dp_shiftImm (t : ShiftType) : ∀ (opc : BitVec 4) (s : Bool) (b : BitVec 1), isDpOp opc s = true →
    table (dpRow false opc s) (b ++ t.bits ++ 0#1) = (dpHandler opc s, .shiftImm t) := by
  cases t <;> decide

set_option maxRecDepth 100000 in
theorem table_dp_shiftReg (t : ShiftType) : ∀ (opc : BitVec 4) (s : Bool), isDpOp opc s = true →
    table (dpRow false opc s) (shiftRegField t) = (dpHandler opc s, .shiftReg t) := by
  cases t <;> decide

/-- The low four bits of `aaaaa tt 0` are a column. -/
theorem shiftImmField_col (t : ShiftType) : ∀ amt : BitVec 5,
    (shiftImmField t amt).extractLsb' 0 4 = amt.extractLsb' 0 1 ++ t.bits ++ 0#1 := by
  cases t <;> decide

/-- The amount in `aaaaa tt 0`. -/
theorem shiftImmField_amt (t : ShiftType) : ∀ amt : BitVec 5, (shiftImmField t amt).extractLsb' 3 5 = amt := by
  cases t <;> decide

/-- A data-processing word lands in its cell. -/
theorem cell_dp (c : Cond) (opc : BitVec 4) (s : Bool) (n d : Reg) (o : ShifterOperand) (h : isDpOp opc s = true) :
    table (rowOf (encodeDp c opc s n d o)) (colOf (encodeDp c opc s n d o)) = (dpHandler opc s, o.resolver) := by
  cases o with
  | imm rot imm8 =>
    have hr : rowOf (encodeDp c opc s n d (.imm rot imm8)) = dpRow true opc s := by
      unfold rowOf encodeDp
      simp (disch := omega) only [extract_append_hi, extract_append_lo, extract_all, Nat.reduceSub]
    rw [hr, table_dp_imm _ _ _ h]; rfl
  | shiftImm t amt m =>
    have hr : rowOf (encodeDp c opc s n d (.shiftImm t amt m)) = dpRow false opc s := by
      unfold rowOf encodeDp
      simp (disch := omega) only [extract_append_hi, extract_append_lo, extract_all, Nat.reduceSub]
    have hc : colOf (encodeDp c opc s n d (.shiftImm t amt m)) = amt.extractLsb' 0 1 ++ t.bits ++ 0#1 := by
      unfold colOf encodeDp
      simp (disch := omega) only [extract_append_hi, extract_append_lo, Nat.reduceSub, shiftImmField_col]
    rw [hr, hc, table_dp_shiftImm t _ _ _ h]; rfl
  | shiftReg t rs m =>
    have hr : rowOf (encodeDp c opc s n d (.shiftReg t rs m)) = dpRow false opc s := by
      unfold rowOf encodeDp
      simp (disch := omega) only [extract_append_hi, extract_append_lo, extract_all, Nat.reduceSub]
    have hc : colOf (encodeDp c opc s n d (.shiftReg t rs m)) = shiftRegField t := by
      unfold colOf encodeDp
      simp (disch := omega) only [extract_append_hi, extract_append_lo, extract_all, Nat.reduceSub]
    rw [hr, hc, table_dp_shiftReg t _ _ h]; rfl

/-- A multiply or swap word lands in column 9 of its row. -/
theorem cell_mul (c : Cond) (row : BitVec 8) (hi lo s m : Reg) :
    table (rowOf (encodeMul c row hi lo s m)) (colOf (encodeMul c row hi lo s m)) = table row 9 := by
  have hr : rowOf (encodeMul c row hi lo s m) = row := by
    unfold rowOf encodeMul
    simp (disch := omega) only [extract_append_hi, extract_append_lo, extract_all, Nat.reduceSub]
  have hc : colOf (encodeMul c row hi lo s m) = 9 := by
    unfold colOf encodeMul
    simp (disch := omega) only [extract_append_hi, extract_append_lo, extract_all, Nat.reduceSub]
    rfl
  rw [hr, hc]

/-- The handler of an extended transfer (R141). -/
def xtHandler (l : Bool) (sh : BitVec 2) : HandlerId :=
  match sh.toNat with
  | 1 => bif l then .ldrh else .strh
  | 2 => bif l then .ldrsb else .ldrd
  | _ => bif l then .ldrsh else .strd

theorem table_xt (ix : Index3) : ∀ (up imm l : Bool) (sh : BitVec 2), sh ≠ 0 →
    table (xtRow ix up imm l) (xtCol sh) = (xtHandler l sh, .m3 ix imm up) := by
  cases ix <;> decide

/-- An extended-transfer word lands in its cell. -/
theorem cell_xt (c : Cond) (l : Bool) (sh : BitVec 2) (d : Reg) (a : Mode3) (h : sh ≠ 0) :
    table (rowOf (encodeXt c l sh d a)) (colOf (encodeXt c l sh d a)) = (xtHandler l sh, a.resolver) := by
  obtain ⟨ix, up, n, off⟩ := a
  cases off with
  | imm v =>
    have hr : rowOf (encodeXt c l sh d ⟨ix, up, n, .imm v⟩) = xtRow ix up true l := by
      unfold rowOf encodeXt
      simp (disch := omega) only [extract_append_hi, extract_append_lo, extract_all, Nat.reduceSub]
    have hc : colOf (encodeXt c l sh d ⟨ix, up, n, .imm v⟩) = xtCol sh := by
      unfold colOf encodeXt
      simp (disch := omega) only [extract_append_hi, extract_append_lo, extract_all, Nat.reduceSub]
    rw [hr, hc, table_xt ix _ _ _ _ h]; rfl
  | reg m =>
    have hr : rowOf (encodeXt c l sh d ⟨ix, up, n, .reg m⟩) = xtRow ix up false l := by
      unfold rowOf encodeXt
      simp (disch := omega) only [extract_append_hi, extract_append_lo, extract_all, Nat.reduceSub]
    have hc : colOf (encodeXt c l sh d ⟨ix, up, n, .reg m⟩) = xtCol sh := by
      unfold colOf encodeXt
      simp (disch := omega) only [extract_append_hi, extract_append_lo, extract_all, Nat.reduceSub]
    rw [hr, hc, table_xt ix _ _ _ _ h]; rfl

set_option maxRecDepth 100000 in
theorem table_st_imm : ∀ (p up byte w l : Bool) (col : BitVec 4),
    table (stRow false p up byte w l) col = (singleHandler l byte (!p && w), .m2 (index2 p w) .imm up) := by decide

set_option maxRecDepth 100000 in
theorem table_st_reg (t : ShiftType) : ∀ (p up byte w l : Bool) (b : BitVec 1),
    table (stRow true p up byte w l) (b ++ t.bits ++ 0#1) = (singleHandler l byte (!p && w), .m2 (index2 p w) (.reg t) up) := by
  cases t <;> decide

/-- A single-transfer word lands in its cell. -/
theorem cell_st (c : Cond) (p byte w l : Bool) (d : Reg) (up : Bool) (n : Reg) (off : Offset2) :
    table (rowOf (encodeSt c p byte w l d up n off)) (colOf (encodeSt c p byte w l d up n off))
      = (singleHandler l byte (!p && w), .m2 (index2 p w) off.kind up) := by
  cases off with
  | imm v =>
    have hr : rowOf (encodeSt c p byte w l d up n (.imm v)) = stRow false p up byte w l := by
      unfold rowOf encodeSt
      simp (disch := omega) only [extract_append_hi, extract_append_lo, extract_all, Nat.reduceSub]
    rw [hr, table_st_imm]; rfl
  | reg t amt m =>
    have hr : rowOf (encodeSt c p byte w l d up n (.reg t amt m)) = stRow true p up byte w l := by
      unfold rowOf encodeSt
      simp (disch := omega) only [extract_append_hi, extract_append_lo, extract_all, Nat.reduceSub]
    have hc : colOf (encodeSt c p byte w l d up n (.reg t amt m)) = amt.extractLsb' 0 1 ++ t.bits ++ 0#1 := by
      unfold colOf encodeSt
      simp (disch := omega) only [extract_append_hi, extract_append_lo, Nat.reduceSub, shiftImmField_col]
    rw [hr, hc, table_st_reg t]; rfl

/-- An MRS word lands in its cell. -/
theorem cell_mrs (c : Cond) (spsr : Bool) (d : Reg) :
    table (rowOf (encodeMrs c spsr d)) (colOf (encodeMrs c spsr d)) = (bif spsr then .mrsSpsr else .mrsCpsr, .none) := by
  have hr : rowOf (encodeMrs c spsr d) = psrRow false spsr false := by
    unfold rowOf encodeMrs
    simp (disch := omega) only [extract_append_hi, extract_append_lo, extract_all, Nat.reduceSub]
  have hc : colOf (encodeMrs c spsr d) = 0 := by
    unfold colOf encodeMrs
    simp (disch := omega) only [extract_append_hi, extract_append_lo, extract_all, Nat.reduceSub]
    rfl
  rw [hr, hc]; cases spsr <;> decide

theorem table_msr_imm : ∀ (spsr : Bool) (col : BitVec 4),
    table (psrRow true spsr true) col = (bif spsr then .msrSpsr else .msrCpsr, .immRot) := by decide

/-- An MSR word lands in its cell. -/
theorem cell_msr (c : Cond) (spsr : Bool) (mask : BitVec 4) (o : PsrOperand) :
    table (rowOf (encodeMsr c spsr mask o)) (colOf (encodeMsr c spsr mask o))
      = (bif spsr then .msrSpsr else .msrCpsr, o.resolver) := by
  cases o with
  | reg m =>
    have hr : rowOf (encodeMsr c spsr mask (.reg m)) = psrRow false spsr true := by
      unfold rowOf encodeMsr
      simp (disch := omega) only [extract_append_hi, extract_append_lo, extract_all, Nat.reduceSub]
    have hc : colOf (encodeMsr c spsr mask (.reg m)) = 0 := by
      unfold colOf encodeMsr
      simp (disch := omega) only [extract_append_hi, extract_append_lo, extract_all, Nat.reduceSub]
      rfl
    rw [hr, hc]; cases spsr <;> rfl
  | imm rot imm8 =>
    have hr : rowOf (encodeMsr c spsr mask (.imm rot imm8)) = psrRow true spsr true := by
      unfold rowOf encodeMsr
      simp (disch := omega) only [extract_append_hi, extract_append_lo, extract_all, Nat.reduceSub]
    rw [hr, table_msr_imm]; rfl

/-- A BX word lands in its cell. -/
theorem cell_bx (c : Cond) (m : Reg) :
    table (rowOf (encodeBx c m)) (colOf (encodeBx c m)) = (.bx, .none) := by
  have hr : rowOf (encodeBx c m) = 0x12 := by
    unfold rowOf encodeBx
    simp (disch := omega) only [extract_append_hi, extract_append_lo, extract_all, Nat.reduceSub]
    rfl
  have hc : colOf (encodeBx c m) = 1 := by
    unfold colOf encodeBx
    simp (disch := omega) only [extract_append_hi, extract_append_lo, extract_all, Nat.reduceSub]
    rfl
  rw [hr, hc]; decide

set_option maxRecDepth 100000 in
theorem table_blk : ∀ (p up s w l : Bool) (col : BitVec 4),
    table (blkRow p up s w l) col = (bif l then .ldm else .stm, .m4 up p) := by decide

/-- A block-transfer word lands in its cell. -/
theorem cell_blk (c : Cond) (l : Bool) (a : Mode4) :
    table (rowOf (encodeBlk c l a)) (colOf (encodeBlk c l a)) = (bif l then .ldm else .stm, .m4 a.up a.before) := by
  have hr : rowOf (encodeBlk c l a) = blkRow a.before a.up a.s a.w l := by
    unfold rowOf encodeBlk
    simp (disch := omega) only [extract_append_hi, extract_append_lo, extract_all, Nat.reduceSub]
  rw [hr, table_blk]

set_option maxRecDepth 100000 in
theorem table_br : ∀ (op x col : BitVec 4), 0xA ≤ op → op ≠ 0xC → op ≠ 0xD → op ≠ 0xE →
    table (op ++ x) col = (if op = 0xA then .b else if op = 0xB then .bl else .swi, .none) := by decide

/-- A branch or SWI word lands in its cell. -/
theorem cell_br (c : Cond) (op : BitVec 4) (f : BitVec 24) (h : 0xA ≤ op) (h1 : op ≠ 0xC) (h2 : op ≠ 0xD) (h3 : op ≠ 0xE) :
    table (rowOf (encodeBr c op f)) (colOf (encodeBr c op f))
      = (if op = 0xA then .b else if op = 0xB then .bl else .swi, .none) := by
  have hr : rowOf (encodeBr c op f) = op ++ f.extractLsb' 20 4 := by
    unfold rowOf encodeBr
    ext i hi
    simp only [← BitVec.getLsbD_eq_getElem, BitVec.getLsbD_append, BitVec.getLsbD_extractLsb']
    by_cases h4 : i < 4
    · simp only [show 20 + i < 24 by omega, h4, hi, decide_true, Bool.true_and, if_true]
    · simp only [show ¬(20 + i < 24) by omega, show 20 + i - 24 = i - 4 by omega, show i - 4 < 4 by omega, h4, hi,
        decide_true, Bool.true_and, if_false, if_true]
  rw [hr, table_br _ _ _ h h1 h2 h3]

set_option maxRecDepth 100000 in
/-- The UNDEFINED cells of the table of R141 are those that R107 lists. -/
theorem table_undefined : ∀ (row : BitVec 8) (col : BitVec 4), undefinedCell row.toNat col.toNat = true →
    table row col = (.undefined, .none) := by decide

/-- The word of a well-formed `undefined` term lands in an UNDEFINED cell. -/
theorem cell_undefined (c : Cond) (bits : BitVec 28) (h : undefinedBits bits = true) :
    table (rowOf (c.bits ++ bits)) (colOf (c.bits ++ bits)) = (.undefined, .none) := by
  have hr : rowOf (c.bits ++ bits) = bits.extractLsb' 20 8 := by
    unfold rowOf; rw [extract_append_lo _ _ _ _ (by omega) (by omega)]
  have hc : colOf (c.bits ++ bits) = bits.extractLsb' 4 4 := by
    unfold colOf; rw [extract_append_lo _ _ _ _ (by omega) (by omega)]
  rw [hr, hc]
  exact table_undefined _ _ h

end Sys2Proof.Laws
end

