-- ==== Sys2Proof/Laws/Flags.lean ====
section
/-! SUPPORT. What the add with carry of R231 gives, on integers, and the flag commit of R232. -/

namespace Sys2Proof.Laws

open Sys2Proof Sys2Proof.Machine

theorem toInt_not_word (x : Word) : (~~~x).toInt = -x.toInt - 1 := by
  have := x.isLt
  rw [BitVec.toInt_eq_toNat_cond, BitVec.toInt_eq_toNat_cond, BitVec.toNat_not]; split <;> split <;> omega

theorem msb_eq_bit31 (v : Word) : v.msb = v.getLsbD 31 := by simp [BitVec.msb_eq_getLsbD_last]

/-- The result of R231 is the sum modulo 2^32. -/
theorem addWithCarry_value (x y : Word) (c : Bool) : (addWithCarry x y c).value = x + y + (if c = true then 1 else 0) := by
  unfold addWithCarry; dsimp only
  apply BitVec.eq_of_toNat_eq
  cases c <;> simp [bit, BitVec.toNat_add]

/-- The carry of R231 is that the unsigned sum does not fit. -/
theorem addWithCarry_carry (x y : Word) (c : Bool) :
    (addWithCarry x y c).c = decide (2 ^ 32 ≤ x.toNat + y.toNat + (if c = true then 1 else 0)) := by
  unfold addWithCarry; dsimp only
  have hx := x.isLt
  have hy := y.isLt
  have key : (BitVec.setWidth 33 x + BitVec.setWidth 33 y + BitVec.setWidth 33 (bit c)).toNat
      = x.toNat + y.toNat + (if c = true then 1 else 0) := by
    cases c <;> simp [bit, BitVec.toNat_add] <;> omega
  rw [BitVec.getLsbD, Nat.testBit_eq_decide_div_mod_eq, key]
  clear key
  cases c <;> simp only [Bool.false_eq_true, if_true, if_false, decide_eq_decide] <;> omega

/-- The overflow of R231 is that the signed sum does not fit. -/
theorem addWithCarry_overflow (x y : Word) (c : Bool) :
    (addWithCarry x y c).v
      = decide ((addWithCarry x y c).value.toInt ≠ x.toInt + y.toInt + (if c = true then 1 else 0)) := by
  show ((x.msb == y.msb) && ((addWithCarry x y c).value.msb != x.msb)) = _
  rw [addWithCarry_value]
  have hx := x.isLt
  have hy := y.isLt
  generalize hr : x + y + (if c = true then (1 : Word) else 0) = r
  have hr' : r.toNat = (x.toNat + y.toNat + (if c = true then 1 else 0)) % 2 ^ 32 := by
    subst hr; cases c <;> simp [BitVec.toNat_add]
  rw [BitVec.msb_eq_decide, BitVec.msb_eq_decide, BitVec.msb_eq_decide, BitVec.toInt_eq_toNat_cond,
    BitVec.toInt_eq_toNat_cond, BitVec.toInt_eq_toNat_cond, hr']
  generalize x.toNat = X at *
  generalize y.toNat = Y at *
  cases c
  all_goals
    simp only [Bool.false_eq_true, if_false, if_true]
    by_cases a1 : 2 ^ 31 ≤ X <;> by_cases a2 : 2 ^ 31 ≤ Y
  all_goals
    rw [Bool.eq_iff_iff]
    simp only [Bool.and_eq_true, beq_iff_eq, bne_iff_ne, ne_eq, decide_eq_decide, decide_eq_true_eq, Nat.reduceSub,
      Nat.reducePow] at *
    split <;> split <;> split <;> omega

/-- The flag commit, in the terms of the statements. -/
theorem commitFlags_eq (s : State) (r : AluResult) :
    s.commitFlags r = s.withFlags (r.value.getLsbD 31) (decide (r.value = 0)) r.c r.v := by
  unfold State.commitFlags State.withFlags; rw [msb_eq_bit31]; rfl

/-- The fields of CPSR after an entry (R433, R436). -/
theorem entry_fields (p : Psr) (m : ExcMode) (b : Bool) :
    (p.entry m b).modeCode = m.code ∧ (p.entry m b).t = false ∧ (p.entry m b).i = true ∧ (p.entry m b).f = (b || p.f)
    ∧ (p.entry m b).rest.extractLsb' 8 20 = p.rest.extractLsb' 8 20 := by
  refine ⟨?_, ?_, ?_, ?_, ?_⟩
  · unfold Psr.modeCode Psr.entry
    exact (extract_append_lo _ _ _ _ (by omega) (by omega)).trans BitVec.extractLsb'_eq_self
  · unfold Psr.t Psr.entry; simp only [BitVec.getLsbD_append]; rfl
  · unfold Psr.i Psr.entry; simp only [BitVec.getLsbD_append]; rfl
  · unfold Psr.f Psr.entry; simp only [BitVec.getLsbD_append]
    rw [if_neg (by omega), if_neg (by omega), if_pos (by omega)]
    show (bit (b || p.f)).getLsbD 0 = (b || p.f)
    cases (b || p.f) <;> rfl
  · unfold Psr.entry
    refine BitVec.eq_of_getLsbD_eq fun k hk => ?_
    simp only [BitVec.getLsbD_append, BitVec.getLsbD_extractLsb', hk, decide_true, Bool.true_and]
    rw [if_neg (by omega), if_neg (by omega), if_neg (by omega), if_neg (by omega)]
    have : 8 + k - 5 - 1 - 1 - 1 < 20 := by omega
    simp only [this, decide_true, Bool.true_and]
    rw [show 8 + (8 + k - 5 - 1 - 1 - 1) = 8 + k by omega]

end Sys2Proof.Laws
end

