-- ==== Sys2Proof/Laws/State.lean ====
section
/-! SUPPORT. One lemma for each field of the state and each named update, so that no proof unfolds a record update; then what a register
write, a status write and an exception return leave alone. -/

namespace Sys2Proof.Laws

open Sys2Proof Sys2Proof.Machine

/-! ### Writing pc, and the hand-over to THUMB state -/

@[simp] theorem writePc_regs (s : State) (v : Word) : (s.writePc v).regs = s.regs := rfl
@[simp] theorem writePc_pc (s : State) (v : Word) : (s.writePc v).pc = v &&& 0xFFFFFFFC := rfl
@[simp] theorem writePc_cpsr (s : State) (v : Word) : (s.writePc v).cpsr = s.cpsr := rfl
@[simp] theorem writePc_spsr (s : State) (v : Word) : (s.writePc v).spsr = s.spsr := rfl
@[simp] theorem writePc_fetchSlot (s : State) (v : Word) : (s.writePc v).fetchSlot = s.fetchSlot := rfl
@[simp] theorem writePc_decodeSlot (s : State) (v : Word) : (s.writePc v).decodeSlot = s.decodeSlot := rfl
@[simp] theorem writePc_executeSlot (s : State) (v : Word) : (s.writePc v).executeSlot = s.executeSlot := rfl
@[simp] theorem writePc_counter (s : State) (v : Word) : (s.writePc v).counter = 3 := rfl
@[simp] theorem writePc_mem (s : State) (v : Word) : (s.writePc v).mem = s.mem := rfl
@[simp] theorem writePc_draws (s : State) (v : Word) : (s.writePc v).draws = s.draws := rfl
@[simp] theorem writePc_bus (s : State) (v : Word) : (s.writePc v).bus = s.bus := rfl
@[simp] theorem writePc_params (s : State) (v : Word) : (s.writePc v).params = s.params := rfl

@[simp] theorem exitThumb_regs (s : State) (v : Word) : (s.exitThumb v).regs = s.regs := rfl
@[simp] theorem exitThumb_pc (s : State) (v : Word) : (s.exitThumb v).pc = v &&& 0xFFFFFFFE := rfl
@[simp] theorem exitThumb_cpsr (s : State) (v : Word) : (s.exitThumb v).cpsr = s.cpsr.withT true := rfl
@[simp] theorem exitThumb_spsr (s : State) (v : Word) : (s.exitThumb v).spsr = s.spsr := rfl
@[simp] theorem exitThumb_fetchSlot (s : State) (v : Word) : (s.exitThumb v).fetchSlot = s.fetchSlot := rfl
@[simp] theorem exitThumb_decodeSlot (s : State) (v : Word) : (s.exitThumb v).decodeSlot = s.decodeSlot := rfl
@[simp] theorem exitThumb_executeSlot (s : State) (v : Word) : (s.exitThumb v).executeSlot = s.executeSlot := rfl
@[simp] theorem exitThumb_counter (s : State) (v : Word) : (s.exitThumb v).counter = 3 := rfl
@[simp] theorem exitThumb_mem (s : State) (v : Word) : (s.exitThumb v).mem = s.mem := rfl
@[simp] theorem exitThumb_draws (s : State) (v : Word) : (s.exitThumb v).draws = s.draws := rfl
@[simp] theorem exitThumb_bus (s : State) (v : Word) : (s.exitThumb v).bus = s.bus := rfl
@[simp] theorem exitThumb_params (s : State) (v : Word) : (s.exitThumb v).params = s.params := rfl

/-! ### The memory collaborator -/

theorem busAs_flat {s : State} (h : s.params.mem = .flat) (b : List Access) : s.busAs b = s.bus := by unfold State.busAs; rw [h]

theorem busAs_given {s : State} (h : s.params.mem = .given) (b : List Access) : s.busAs b = b := by unfold State.busAs; rw [h]

theorem memAs_flat {s : State} (h : s.params.mem = .flat) (m : Memory) : s.memAs m = m := by unfold State.memAs; rw [h]

theorem memAs_given {s : State} (h : s.params.mem = .given) (m : Memory) : s.memAs m = s.mem := by unfold State.memAs; rw [h]

/-- The default memory after a write of a memory: that memory, or as before. -/
theorem memAs_cases (s : State) (m : Memory) : s.memAs m = m ∨ s.memAs m = s.mem := by
  unfold State.memAs; split
  · exact .inl rfl
  · exact .inr rfl

/-- The default memory has no side effects on a read (R65). -/
theorem ask_flat {s : State} (h : s.params.mem = .flat) (x : Access) : s.ask x = s := by unfold State.ask; rw [busAs_flat h]

theorem ask_given {s : State} (h : s.params.mem = .given) (x : Access) : s.ask x = { s with bus := x :: s.bus } := by
  unfold State.ask; rw [busAs_given h]

/-- A write of the default memory (R65). -/
theorem put_flat {s : State} (h : s.params.mem = .flat) (x : Access) (m : Memory) : s.put x m = { s with mem := m } := by
  unfold State.put; rw [memAs_flat h, busAs_flat h]

theorem put_given {s : State} (h : s.params.mem = .given) (x : Access) (m : Memory) :
    s.put x m = { s with bus := x :: s.bus } := by
  unfold State.put; rw [memAs_given h, busAs_given h]

theorem load8_flat {s : State} (h : s.params.mem = .flat) (a : Word) : s.load8 a = s.mem.read8 a := by unfold State.load8; rw [h]

theorem load16_flat {s : State} (h : s.params.mem = .flat) (a : Word) : s.load16 a = s.mem.read16 a := by
  unfold State.load16; rw [h]

theorem load32_flat {s : State} (h : s.params.mem = .flat) (a : Word) : s.load32 a = s.mem.read32 a := by
  unfold State.load32; rw [h]

theorem load32_given {s : State} (h : s.params.mem = .given) (a : Word) : s.load32 a = s.answer (.read .word a) := by
  unfold State.load32; rw [h]

/-- R63, for a read. -/
theorem load64_eq (s : State) (a : Word) : s.load64 a = (s.ask (.read .word a)).load32 (a + 4) ++ s.load32 a := by
  unfold State.load64; split
  · rename_i h; rw [ask_flat h, load32_flat h, load32_flat h]; rfl
  · rfl

/-- R63, for a write. -/
theorem store64_eq (s : State) (a : Word) (v : BitVec 64) :
    s.store64 a v = (s.store32 a (v.extractLsb' 0 32)).store32 (a + 4) (v.extractLsb' 32 32) := by
  unfold State.store64 State.store32 State.put State.memAs State.busAs
  cases s.params.mem <;> rfl

@[simp] theorem wordReads_zero (bus : List Access) (a : Word) : wordReads bus a 0 = bus := rfl

theorem wordReads_succ (bus : List Access) (a : Word) (n : Nat) :
    wordReads bus a (n + 1) = .read .word (a + 4 * BitVec.ofNat 32 n) :: wordReads bus a n := by
  simp [wordReads, List.range_succ]

@[simp] theorem ask_regs (s : State) (x : Access) : (s.ask x).regs = s.regs := rfl
@[simp] theorem ask_pc (s : State) (x : Access) : (s.ask x).pc = s.pc := rfl
@[simp] theorem ask_cpsr (s : State) (x : Access) : (s.ask x).cpsr = s.cpsr := rfl
@[simp] theorem ask_spsr (s : State) (x : Access) : (s.ask x).spsr = s.spsr := rfl
@[simp] theorem ask_fetchSlot (s : State) (x : Access) : (s.ask x).fetchSlot = s.fetchSlot := rfl
@[simp] theorem ask_decodeSlot (s : State) (x : Access) : (s.ask x).decodeSlot = s.decodeSlot := rfl
@[simp] theorem ask_executeSlot (s : State) (x : Access) : (s.ask x).executeSlot = s.executeSlot := rfl
@[simp] theorem ask_counter (s : State) (x : Access) : (s.ask x).counter = s.counter := rfl
@[simp] theorem ask_mem (s : State) (x : Access) : (s.ask x).mem = s.mem := rfl
@[simp] theorem ask_bus (s : State) (x : Access) : (s.ask x).bus = s.busAs (x :: s.bus) := rfl
@[simp] theorem ask_draws (s : State) (x : Access) : (s.ask x).draws = s.draws := rfl
@[simp] theorem ask_params (s : State) (x : Access) : (s.ask x).params = s.params := rfl

@[simp] theorem put_regs (s : State) (x : Access) (m : Memory) : (s.put x m).regs = s.regs := rfl
@[simp] theorem put_pc (s : State) (x : Access) (m : Memory) : (s.put x m).pc = s.pc := rfl
@[simp] theorem put_cpsr (s : State) (x : Access) (m : Memory) : (s.put x m).cpsr = s.cpsr := rfl
@[simp] theorem put_spsr (s : State) (x : Access) (m : Memory) : (s.put x m).spsr = s.spsr := rfl
@[simp] theorem put_fetchSlot (s : State) (x : Access) (m : Memory) : (s.put x m).fetchSlot = s.fetchSlot := rfl
@[simp] theorem put_decodeSlot (s : State) (x : Access) (m : Memory) : (s.put x m).decodeSlot = s.decodeSlot := rfl
@[simp] theorem put_executeSlot (s : State) (x : Access) (m : Memory) : (s.put x m).executeSlot = s.executeSlot := rfl
@[simp] theorem put_counter (s : State) (x : Access) (m : Memory) : (s.put x m).counter = s.counter := rfl
@[simp] theorem put_mem (s : State) (x : Access) (m : Memory) : (s.put x m).mem = s.memAs m := rfl
@[simp] theorem put_bus (s : State) (x : Access) (m : Memory) : (s.put x m).bus = s.busAs (x :: s.bus) := rfl
@[simp] theorem put_draws (s : State) (x : Access) (m : Memory) : (s.put x m).draws = s.draws := rfl
@[simp] theorem put_params (s : State) (x : Access) (m : Memory) : (s.put x m).params = s.params := rfl

@[simp] theorem ask64_regs (s : State) (a : Word) : (s.ask64 a).regs = s.regs := rfl
@[simp] theorem ask64_pc (s : State) (a : Word) : (s.ask64 a).pc = s.pc := rfl
@[simp] theorem ask64_cpsr (s : State) (a : Word) : (s.ask64 a).cpsr = s.cpsr := rfl
@[simp] theorem ask64_spsr (s : State) (a : Word) : (s.ask64 a).spsr = s.spsr := rfl
@[simp] theorem ask64_fetchSlot (s : State) (a : Word) : (s.ask64 a).fetchSlot = s.fetchSlot := rfl
@[simp] theorem ask64_decodeSlot (s : State) (a : Word) : (s.ask64 a).decodeSlot = s.decodeSlot := rfl
@[simp] theorem ask64_executeSlot (s : State) (a : Word) : (s.ask64 a).executeSlot = s.executeSlot := rfl
@[simp] theorem ask64_counter (s : State) (a : Word) : (s.ask64 a).counter = s.counter := rfl
@[simp] theorem ask64_mem (s : State) (a : Word) : (s.ask64 a).mem = s.mem := rfl
@[simp] theorem ask64_bus (s : State) (a : Word) : (s.ask64 a).bus = s.busAs (.read .word (a + 4) :: .read .word a :: s.bus) := by
  unfold State.ask64 State.ask State.busAs; cases s.params.mem <;> rfl
@[simp] theorem ask64_draws (s : State) (a : Word) : (s.ask64 a).draws = s.draws := rfl
@[simp] theorem ask64_params (s : State) (a : Word) : (s.ask64 a).params = s.params := rfl

@[simp] theorem store8_regs (s : State) (a : Word) (v : Byte) : (s.store8 a v).regs = s.regs := rfl
@[simp] theorem store8_pc (s : State) (a : Word) (v : Byte) : (s.store8 a v).pc = s.pc := rfl
@[simp] theorem store8_cpsr (s : State) (a : Word) (v : Byte) : (s.store8 a v).cpsr = s.cpsr := rfl
@[simp] theorem store8_spsr (s : State) (a : Word) (v : Byte) : (s.store8 a v).spsr = s.spsr := rfl
@[simp] theorem store8_fetchSlot (s : State) (a : Word) (v : Byte) : (s.store8 a v).fetchSlot = s.fetchSlot := rfl
@[simp] theorem store8_decodeSlot (s : State) (a : Word) (v : Byte) : (s.store8 a v).decodeSlot = s.decodeSlot := rfl
@[simp] theorem store8_executeSlot (s : State) (a : Word) (v : Byte) : (s.store8 a v).executeSlot = s.executeSlot := rfl
@[simp] theorem store8_counter (s : State) (a : Word) (v : Byte) : (s.store8 a v).counter = s.counter := rfl
@[simp] theorem store8_mem (s : State) (a : Word) (v : Byte) : (s.store8 a v).mem = s.memAs (s.mem.write8 a v) := rfl
@[simp] theorem store8_bus (s : State) (a : Word) (v : Byte) : (s.store8 a v).bus = s.busAs (.write .byte a (v.setWidth 32) :: s.bus) := rfl
@[simp] theorem store8_draws (s : State) (a : Word) (v : Byte) : (s.store8 a v).draws = s.draws := rfl
@[simp] theorem store8_params (s : State) (a : Word) (v : Byte) : (s.store8 a v).params = s.params := rfl

@[simp] theorem store16_regs (s : State) (a : Word) (v : BitVec 16) : (s.store16 a v).regs = s.regs := rfl
@[simp] theorem store16_pc (s : State) (a : Word) (v : BitVec 16) : (s.store16 a v).pc = s.pc := rfl
@[simp] theorem store16_cpsr (s : State) (a : Word) (v : BitVec 16) : (s.store16 a v).cpsr = s.cpsr := rfl
@[simp] theorem store16_spsr (s : State) (a : Word) (v : BitVec 16) : (s.store16 a v).spsr = s.spsr := rfl
@[simp] theorem store16_fetchSlot (s : State) (a : Word) (v : BitVec 16) : (s.store16 a v).fetchSlot = s.fetchSlot := rfl
@[simp] theorem store16_decodeSlot (s : State) (a : Word) (v : BitVec 16) : (s.store16 a v).decodeSlot = s.decodeSlot := rfl
@[simp] theorem store16_executeSlot (s : State) (a : Word) (v : BitVec 16) : (s.store16 a v).executeSlot = s.executeSlot := rfl
@[simp] theorem store16_counter (s : State) (a : Word) (v : BitVec 16) : (s.store16 a v).counter = s.counter := rfl
@[simp] theorem store16_mem (s : State) (a : Word) (v : BitVec 16) : (s.store16 a v).mem = s.memAs (s.mem.write16 a v) := rfl
@[simp] theorem store16_bus (s : State) (a : Word) (v : BitVec 16) : (s.store16 a v).bus = s.busAs (.write .half a (v.setWidth 32) :: s.bus) := rfl
@[simp] theorem store16_draws (s : State) (a : Word) (v : BitVec 16) : (s.store16 a v).draws = s.draws := rfl
@[simp] theorem store16_params (s : State) (a : Word) (v : BitVec 16) : (s.store16 a v).params = s.params := rfl

@[simp] theorem store32_regs (s : State) (a v : Word) : (s.store32 a v).regs = s.regs := rfl
@[simp] theorem store32_pc (s : State) (a v : Word) : (s.store32 a v).pc = s.pc := rfl
@[simp] theorem store32_cpsr (s : State) (a v : Word) : (s.store32 a v).cpsr = s.cpsr := rfl
@[simp] theorem store32_spsr (s : State) (a v : Word) : (s.store32 a v).spsr = s.spsr := rfl
@[simp] theorem store32_fetchSlot (s : State) (a v : Word) : (s.store32 a v).fetchSlot = s.fetchSlot := rfl
@[simp] theorem store32_decodeSlot (s : State) (a v : Word) : (s.store32 a v).decodeSlot = s.decodeSlot := rfl
@[simp] theorem store32_executeSlot (s : State) (a v : Word) : (s.store32 a v).executeSlot = s.executeSlot := rfl
@[simp] theorem store32_counter (s : State) (a v : Word) : (s.store32 a v).counter = s.counter := rfl
@[simp] theorem store32_mem (s : State) (a v : Word) : (s.store32 a v).mem = s.memAs (s.mem.write32 a v) := rfl
@[simp] theorem store32_bus (s : State) (a v : Word) : (s.store32 a v).bus = s.busAs (.write .word a v :: s.bus) := rfl
@[simp] theorem store32_draws (s : State) (a v : Word) : (s.store32 a v).draws = s.draws := rfl
@[simp] theorem store32_params (s : State) (a v : Word) : (s.store32 a v).params = s.params := rfl

@[simp] theorem store64_regs (s : State) (a : Word) (v : BitVec 64) : (s.store64 a v).regs = s.regs := rfl
@[simp] theorem store64_pc (s : State) (a : Word) (v : BitVec 64) : (s.store64 a v).pc = s.pc := rfl
@[simp] theorem store64_cpsr (s : State) (a : Word) (v : BitVec 64) : (s.store64 a v).cpsr = s.cpsr := rfl
@[simp] theorem store64_spsr (s : State) (a : Word) (v : BitVec 64) : (s.store64 a v).spsr = s.spsr := rfl
@[simp] theorem store64_fetchSlot (s : State) (a : Word) (v : BitVec 64) : (s.store64 a v).fetchSlot = s.fetchSlot := rfl
@[simp] theorem store64_decodeSlot (s : State) (a : Word) (v : BitVec 64) : (s.store64 a v).decodeSlot = s.decodeSlot := rfl
@[simp] theorem store64_executeSlot (s : State) (a : Word) (v : BitVec 64) : (s.store64 a v).executeSlot = s.executeSlot := rfl
@[simp] theorem store64_counter (s : State) (a : Word) (v : BitVec 64) : (s.store64 a v).counter = s.counter := rfl
@[simp] theorem store64_mem (s : State) (a : Word) (v : BitVec 64) : (s.store64 a v).mem = s.memAs (s.mem.write64 a v) := rfl
@[simp] theorem store64_bus (s : State) (a : Word) (v : BitVec 64) : (s.store64 a v).bus = s.busAs (.write .word (a + 4) (v.extractLsb' 32 32) :: .write .word a (v.extractLsb' 0 32) :: s.bus) := rfl
@[simp] theorem store64_draws (s : State) (a : Word) (v : BitVec 64) : (s.store64 a v).draws = s.draws := rfl
@[simp] theorem store64_params (s : State) (a : Word) (v : BitVec 64) : (s.store64 a v).params = s.params := rfl

@[simp] theorem askWords_regs (s : State) (a : Word) (n : Nat) : (s.askWords a n).regs = s.regs := rfl
@[simp] theorem askWords_pc (s : State) (a : Word) (n : Nat) : (s.askWords a n).pc = s.pc := rfl
@[simp] theorem askWords_cpsr (s : State) (a : Word) (n : Nat) : (s.askWords a n).cpsr = s.cpsr := rfl
@[simp] theorem askWords_spsr (s : State) (a : Word) (n : Nat) : (s.askWords a n).spsr = s.spsr := rfl
@[simp] theorem askWords_fetchSlot (s : State) (a : Word) (n : Nat) : (s.askWords a n).fetchSlot = s.fetchSlot := rfl
@[simp] theorem askWords_decodeSlot (s : State) (a : Word) (n : Nat) : (s.askWords a n).decodeSlot = s.decodeSlot := rfl
@[simp] theorem askWords_executeSlot (s : State) (a : Word) (n : Nat) : (s.askWords a n).executeSlot = s.executeSlot := rfl
@[simp] theorem askWords_counter (s : State) (a : Word) (n : Nat) : (s.askWords a n).counter = s.counter := rfl
@[simp] theorem askWords_mem (s : State) (a : Word) (n : Nat) : (s.askWords a n).mem = s.mem := rfl
@[simp] theorem askWords_bus (s : State) (a : Word) (n : Nat) : (s.askWords a n).bus = s.busAs (wordReads s.bus a n) := rfl
@[simp] theorem askWords_draws (s : State) (a : Word) (n : Nat) : (s.askWords a n).draws = s.draws := rfl
@[simp] theorem askWords_params (s : State) (a : Word) (n : Nat) : (s.askWords a n).params = s.params := rfl

@[simp] theorem storeWords_regs (s : State) (a : Word) (vs : List Word) : (s.storeWords a vs).regs = s.regs := rfl
@[simp] theorem storeWords_pc (s : State) (a : Word) (vs : List Word) : (s.storeWords a vs).pc = s.pc := rfl
@[simp] theorem storeWords_cpsr (s : State) (a : Word) (vs : List Word) : (s.storeWords a vs).cpsr = s.cpsr := rfl
@[simp] theorem storeWords_spsr (s : State) (a : Word) (vs : List Word) : (s.storeWords a vs).spsr = s.spsr := rfl
@[simp] theorem storeWords_fetchSlot (s : State) (a : Word) (vs : List Word) : (s.storeWords a vs).fetchSlot = s.fetchSlot := rfl
@[simp] theorem storeWords_decodeSlot (s : State) (a : Word) (vs : List Word) : (s.storeWords a vs).decodeSlot = s.decodeSlot := rfl
@[simp] theorem storeWords_executeSlot (s : State) (a : Word) (vs : List Word) : (s.storeWords a vs).executeSlot = s.executeSlot := rfl
@[simp] theorem storeWords_counter (s : State) (a : Word) (vs : List Word) : (s.storeWords a vs).counter = s.counter := rfl
@[simp] theorem storeWords_mem (s : State) (a : Word) (vs : List Word) : (s.storeWords a vs).mem = s.memAs (s.mem.writeWords a vs) := rfl
@[simp] theorem storeWords_bus (s : State) (a : Word) (vs : List Word) : (s.storeWords a vs).bus = s.busAs (wordWrites s.bus a vs) := rfl
@[simp] theorem storeWords_draws (s : State) (a : Word) (vs : List Word) : (s.storeWords a vs).draws = s.draws := rfl
@[simp] theorem storeWords_params (s : State) (a : Word) (vs : List Word) : (s.storeWords a vs).params = s.params := rfl

/-! ### Flags -/

@[simp] theorem withFlags_regs (s : State) (n z c v : Bool) : (s.withFlags n z c v).regs = s.regs := rfl
@[simp] theorem withFlags_pc (s : State) (n z c v : Bool) : (s.withFlags n z c v).pc = s.pc := rfl
@[simp] theorem withFlags_cpsr (s : State) (n z c v : Bool) : (s.withFlags n z c v).cpsr = ⟨n, z, c, v, s.cpsr.rest⟩ := rfl
@[simp] theorem withFlags_spsr (s : State) (n z c v : Bool) : (s.withFlags n z c v).spsr = s.spsr := rfl
@[simp] theorem withFlags_fetchSlot (s : State) (n z c v : Bool) : (s.withFlags n z c v).fetchSlot = s.fetchSlot := rfl
@[simp] theorem withFlags_decodeSlot (s : State) (n z c v : Bool) : (s.withFlags n z c v).decodeSlot = s.decodeSlot := rfl
@[simp] theorem withFlags_executeSlot (s : State) (n z c v : Bool) : (s.withFlags n z c v).executeSlot = s.executeSlot := rfl
@[simp] theorem withFlags_counter (s : State) (n z c v : Bool) : (s.withFlags n z c v).counter = s.counter := rfl
@[simp] theorem withFlags_mem (s : State) (n z c v : Bool) : (s.withFlags n z c v).mem = s.mem := rfl
@[simp] theorem withFlags_draws (s : State) (n z c v : Bool) : (s.withFlags n z c v).draws = s.draws := rfl
@[simp] theorem withFlags_bus (s : State) (n z c v : Bool) : (s.withFlags n z c v).bus = s.bus := rfl
@[simp] theorem withFlags_params (s : State) (n z c v : Bool) : (s.withFlags n z c v).params = s.params := rfl

@[simp] theorem commitFlags_regs (s : State) (r : AluResult) : (s.commitFlags r).regs = s.regs := rfl
@[simp] theorem commitFlags_pc (s : State) (r : AluResult) : (s.commitFlags r).pc = s.pc := rfl
@[simp] theorem commitFlags_cpsr (s : State) (r : AluResult) : (s.commitFlags r).cpsr = ⟨r.value.msb, r.value == 0, r.c, r.v, s.cpsr.rest⟩ := rfl
@[simp] theorem commitFlags_spsr (s : State) (r : AluResult) : (s.commitFlags r).spsr = s.spsr := rfl
@[simp] theorem commitFlags_fetchSlot (s : State) (r : AluResult) : (s.commitFlags r).fetchSlot = s.fetchSlot := rfl
@[simp] theorem commitFlags_decodeSlot (s : State) (r : AluResult) : (s.commitFlags r).decodeSlot = s.decodeSlot := rfl
@[simp] theorem commitFlags_executeSlot (s : State) (r : AluResult) : (s.commitFlags r).executeSlot = s.executeSlot := rfl
@[simp] theorem commitFlags_counter (s : State) (r : AluResult) : (s.commitFlags r).counter = s.counter := rfl
@[simp] theorem commitFlags_mem (s : State) (r : AluResult) : (s.commitFlags r).mem = s.mem := rfl
@[simp] theorem commitFlags_draws (s : State) (r : AluResult) : (s.commitFlags r).draws = s.draws := rfl
@[simp] theorem commitFlags_bus (s : State) (r : AluResult) : (s.commitFlags r).bus = s.bus := rfl
@[simp] theorem commitFlags_params (s : State) (r : AluResult) : (s.commitFlags r).params = s.params := rfl

@[simp] theorem commitMul_regs (s : State) (r : Word) : (s.commitMul r).regs = s.regs := rfl
@[simp] theorem commitMul_pc (s : State) (r : Word) : (s.commitMul r).pc = s.pc := rfl
@[simp] theorem commitMul_cpsr (s : State) (r : Word) : (s.commitMul r).cpsr = ⟨r.msb, r == 0, Config.mulFlagC s.draws, s.cpsr.v, s.cpsr.rest⟩ := rfl
@[simp] theorem commitMul_spsr (s : State) (r : Word) : (s.commitMul r).spsr = s.spsr := rfl
@[simp] theorem commitMul_fetchSlot (s : State) (r : Word) : (s.commitMul r).fetchSlot = s.fetchSlot := rfl
@[simp] theorem commitMul_decodeSlot (s : State) (r : Word) : (s.commitMul r).decodeSlot = s.decodeSlot := rfl
@[simp] theorem commitMul_executeSlot (s : State) (r : Word) : (s.commitMul r).executeSlot = s.executeSlot := rfl
@[simp] theorem commitMul_counter (s : State) (r : Word) : (s.commitMul r).counter = s.counter := rfl
@[simp] theorem commitMul_mem (s : State) (r : Word) : (s.commitMul r).mem = s.mem := rfl
@[simp] theorem commitMul_draws (s : State) (r : Word) : (s.commitMul r).draws = s.draws + 1 := rfl
@[simp] theorem commitMul_bus (s : State) (r : Word) : (s.commitMul r).bus = s.bus := rfl
@[simp] theorem commitMul_params (s : State) (r : Word) : (s.commitMul r).params = s.params := rfl

@[simp] theorem commitMulLong_regs (s : State) (r : BitVec 64) : (s.commitMulLong r).regs = s.regs := rfl
@[simp] theorem commitMulLong_pc (s : State) (r : BitVec 64) : (s.commitMulLong r).pc = s.pc := rfl
@[simp] theorem commitMulLong_cpsr (s : State) (r : BitVec 64) : (s.commitMulLong r).cpsr = ⟨r.msb, r == 0, Config.mulFlagC s.draws, Config.mulFlagV s.draws, s.cpsr.rest⟩ := rfl
@[simp] theorem commitMulLong_spsr (s : State) (r : BitVec 64) : (s.commitMulLong r).spsr = s.spsr := rfl
@[simp] theorem commitMulLong_fetchSlot (s : State) (r : BitVec 64) : (s.commitMulLong r).fetchSlot = s.fetchSlot := rfl
@[simp] theorem commitMulLong_decodeSlot (s : State) (r : BitVec 64) : (s.commitMulLong r).decodeSlot = s.decodeSlot := rfl
@[simp] theorem commitMulLong_executeSlot (s : State) (r : BitVec 64) : (s.commitMulLong r).executeSlot = s.executeSlot := rfl
@[simp] theorem commitMulLong_counter (s : State) (r : BitVec 64) : (s.commitMulLong r).counter = s.counter := rfl
@[simp] theorem commitMulLong_mem (s : State) (r : BitVec 64) : (s.commitMulLong r).mem = s.mem := rfl
@[simp] theorem commitMulLong_draws (s : State) (r : BitVec 64) : (s.commitMulLong r).draws = s.draws + 1 := rfl
@[simp] theorem commitMulLong_bus (s : State) (r : BitVec 64) : (s.commitMulLong r).bus = s.bus := rfl
@[simp] theorem commitMulLong_params (s : State) (r : BitVec 64) : (s.commitMulLong r).params = s.params := rfl

/-! ### The pipeline -/

@[simp] theorem shift_regs (s : State) : (shift s).regs = s.regs := rfl
@[simp] theorem shift_pc (s : State) : (shift s).pc = s.pc := rfl
@[simp] theorem shift_cpsr (s : State) : (shift s).cpsr = s.cpsr := rfl
@[simp] theorem shift_spsr (s : State) : (shift s).spsr = s.spsr := rfl
@[simp] theorem shift_fetchSlot (s : State) : (shift s).fetchSlot = s.load32 s.pc := rfl
@[simp] theorem shift_decodeSlot (s : State) : (shift s).decodeSlot = s.fetchSlot := rfl
@[simp] theorem shift_executeSlot (s : State) : (shift s).executeSlot = s.decodeSlot := rfl
@[simp] theorem shift_counter (s : State) : (shift s).counter = s.counter := rfl
@[simp] theorem shift_mem (s : State) : (shift s).mem = s.mem := rfl
@[simp] theorem shift_draws (s : State) : (shift s).draws = s.draws := rfl
@[simp] theorem shift_bus (s : State) : (shift s).bus = s.busAs (.read .word s.pc :: s.bus) := rfl
@[simp] theorem shift_params (s : State) : (shift s).params = s.params := rfl

@[simp] theorem advance_regs (s : State) : (advance s).regs = s.regs := rfl
@[simp] theorem advance_pc (s : State) : (advance s).pc = s.pc + 4 := rfl
@[simp] theorem advance_cpsr (s : State) : (advance s).cpsr = s.cpsr := rfl
@[simp] theorem advance_spsr (s : State) : (advance s).spsr = s.spsr := rfl
@[simp] theorem advance_fetchSlot (s : State) : (advance s).fetchSlot = s.fetchSlot := rfl
@[simp] theorem advance_decodeSlot (s : State) : (advance s).decodeSlot = s.decodeSlot := rfl
@[simp] theorem advance_executeSlot (s : State) : (advance s).executeSlot = s.executeSlot := rfl
@[simp] theorem advance_counter (s : State) : (advance s).counter = s.counter := rfl
@[simp] theorem advance_mem (s : State) : (advance s).mem = s.mem := rfl
@[simp] theorem advance_draws (s : State) : (advance s).draws = s.draws := rfl
@[simp] theorem advance_bus (s : State) : (advance s).bus = s.bus := rfl
@[simp] theorem advance_params (s : State) : (advance s).params = s.params := rfl

@[simp] theorem tick_regs (s : State) : (tick s).regs = s.regs := rfl
@[simp] theorem tick_pc (s : State) : (tick s).pc = s.pc := rfl
@[simp] theorem tick_cpsr (s : State) : (tick s).cpsr = s.cpsr := rfl
@[simp] theorem tick_spsr (s : State) : (tick s).spsr = s.spsr := rfl
@[simp] theorem tick_fetchSlot (s : State) : (tick s).fetchSlot = s.fetchSlot := rfl
@[simp] theorem tick_decodeSlot (s : State) : (tick s).decodeSlot = s.decodeSlot := rfl
@[simp] theorem tick_executeSlot (s : State) : (tick s).executeSlot = s.executeSlot := rfl
@[simp] theorem tick_counter (s : State) : (tick s).counter = s.counter >>> 1 := rfl
@[simp] theorem tick_mem (s : State) : (tick s).mem = s.mem := rfl
@[simp] theorem tick_draws (s : State) : (tick s).draws = s.draws := rfl
@[simp] theorem tick_bus (s : State) : (tick s).bus = s.bus := rfl
@[simp] theorem tick_params (s : State) : (tick s).params = s.params := rfl

/-! ### Status registers, exceptions and reset -/

@[simp] theorem writeCpsr_regs (s : State) (mask : BitVec 4) (v : Word) : (s.writeCpsr mask v).regs = s.regs := rfl
@[simp] theorem writeCpsr_pc (s : State) (mask : BitVec 4) (v : Word) : (s.writeCpsr mask v).pc = s.pc := rfl
@[simp] theorem writeCpsr_cpsr (s : State) (mask : BitVec 4) (v : Word) : (s.writeCpsr mask v).cpsr = Psr.ofWord (mergeBits s.cpsr.toWord v (fieldBits mask &&& s.cpsrBits)) := rfl
@[simp] theorem writeCpsr_spsr (s : State) (mask : BitVec 4) (v : Word) : (s.writeCpsr mask v).spsr = s.spsr := rfl
@[simp] theorem writeCpsr_fetchSlot (s : State) (mask : BitVec 4) (v : Word) : (s.writeCpsr mask v).fetchSlot = s.fetchSlot := rfl
@[simp] theorem writeCpsr_decodeSlot (s : State) (mask : BitVec 4) (v : Word) : (s.writeCpsr mask v).decodeSlot = s.decodeSlot := rfl
@[simp] theorem writeCpsr_executeSlot (s : State) (mask : BitVec 4) (v : Word) : (s.writeCpsr mask v).executeSlot = s.executeSlot := rfl
@[simp] theorem writeCpsr_counter (s : State) (mask : BitVec 4) (v : Word) : (s.writeCpsr mask v).counter = s.counter := rfl
@[simp] theorem writeCpsr_mem (s : State) (mask : BitVec 4) (v : Word) : (s.writeCpsr mask v).mem = s.mem := rfl
@[simp] theorem writeCpsr_draws (s : State) (mask : BitVec 4) (v : Word) : (s.writeCpsr mask v).draws = s.draws := rfl
@[simp] theorem writeCpsr_bus (s : State) (mask : BitVec 4) (v : Word) : (s.writeCpsr mask v).bus = s.bus := rfl
@[simp] theorem writeCpsr_params (s : State) (mask : BitVec 4) (v : Word) : (s.writeCpsr mask v).params = s.params := rfl

@[simp] theorem takeException_regs (s : State) (m : ExcMode) (link vector : Word) (b : Bool) : (takeException m link vector b s).regs = s.linked m.code link := rfl
@[simp] theorem takeException_pc (s : State) (m : ExcMode) (link vector : Word) (b : Bool) : (takeException m link vector b s).pc = vector &&& 0xFFFFFFFC := rfl
@[simp] theorem takeException_cpsr (s : State) (m : ExcMode) (link vector : Word) (b : Bool) : (takeException m link vector b s).cpsr = s.cpsr.entry m b := rfl
@[simp] theorem takeException_spsr (s : State) (m : ExcMode) (link vector : Word) (b : Bool) : (takeException m link vector b s).spsr = s.savedSpsr m.code := rfl
@[simp] theorem takeException_fetchSlot (s : State) (m : ExcMode) (link vector : Word) (b : Bool) : (takeException m link vector b s).fetchSlot = s.fetchSlot := rfl
@[simp] theorem takeException_decodeSlot (s : State) (m : ExcMode) (link vector : Word) (b : Bool) : (takeException m link vector b s).decodeSlot = s.decodeSlot := rfl
@[simp] theorem takeException_executeSlot (s : State) (m : ExcMode) (link vector : Word) (b : Bool) : (takeException m link vector b s).executeSlot = s.executeSlot := rfl
@[simp] theorem takeException_counter (s : State) (m : ExcMode) (link vector : Word) (b : Bool) : (takeException m link vector b s).counter = 3 := rfl
@[simp] theorem takeException_mem (s : State) (m : ExcMode) (link vector : Word) (b : Bool) : (takeException m link vector b s).mem = s.mem := rfl
@[simp] theorem takeException_draws (s : State) (m : ExcMode) (link vector : Word) (b : Bool) : (takeException m link vector b s).draws = s.draws := rfl
@[simp] theorem takeException_bus (s : State) (m : ExcMode) (link vector : Word) (b : Bool) : (takeException m link vector b s).bus = s.bus := rfl
@[simp] theorem takeException_params (s : State) (m : ExcMode) (link vector : Word) (b : Bool) : (takeException m link vector b s).params = s.params := rfl

@[simp] theorem enter_regs (s : State) (e : Entered) : (s.enter e).regs = e.context.regs := by
  unfold State.enter; split <;> rfl
@[simp] theorem enter_cpsr (s : State) (e : Entered) : (s.enter e).cpsr = e.context.cpsr := by
  unfold State.enter; split <;> rfl
@[simp] theorem enter_spsr (s : State) (e : Entered) : (s.enter e).spsr = e.context.spsr := by
  unfold State.enter; split <;> rfl
@[simp] theorem enter_fetchSlot (s : State) (e : Entered) : (s.enter e).fetchSlot = s.fetchSlot := by
  unfold State.enter; split <;> rfl
@[simp] theorem enter_decodeSlot (s : State) (e : Entered) : (s.enter e).decodeSlot = s.decodeSlot := by
  unfold State.enter; split <;> rfl
@[simp] theorem enter_executeSlot (s : State) (e : Entered) : (s.enter e).executeSlot = s.executeSlot := by
  unfold State.enter; split <;> rfl
@[simp] theorem enter_mem (s : State) (e : Entered) : (s.enter e).mem = s.mem := by
  unfold State.enter; split <;> rfl
@[simp] theorem enter_draws (s : State) (e : Entered) : (s.enter e).draws = s.draws := by
  unfold State.enter; split <;> rfl
@[simp] theorem enter_bus (s : State) (e : Entered) : (s.enter e).bus = s.bus := by
  unfold State.enter; split <;> rfl
@[simp] theorem enter_params (s : State) (e : Entered) : (s.enter e).params = s.params := by
  unfold State.enter; split <;> rfl

/-- An entry function wrote pc, which is a PC write, or pc and the counter are as before (R407). -/
theorem enter_pc_counter (s : State) (e : Entered) :
    ((s.enter e).pc = s.pc ∧ (s.enter e).counter = s.counter)
      ∨ ∃ v, (s.enter e).pc = v &&& 0xFFFFFFFC ∧ (s.enter e).counter = 3 := by
  unfold State.enter
  split
  · exact .inr ⟨_, rfl, rfl⟩
  · exact .inl ⟨rfl, rfl⟩

@[simp] theorem applyReset_regs (s : State) : (applyReset s).regs = s.regs := rfl
@[simp] theorem applyReset_pc (s : State) : (applyReset s).pc = s.params.resetPC &&& 0xFFFFFFFC := rfl
@[simp] theorem applyReset_cpsr (s : State) : (applyReset s).cpsr = s.cpsr := rfl
@[simp] theorem applyReset_spsr (s : State) : (applyReset s).spsr = s.spsr := rfl
@[simp] theorem applyReset_fetchSlot (s : State) : (applyReset s).fetchSlot = 0 := rfl
@[simp] theorem applyReset_decodeSlot (s : State) : (applyReset s).decodeSlot = 0 := rfl
@[simp] theorem applyReset_executeSlot (s : State) : (applyReset s).executeSlot = 0 := rfl
@[simp] theorem applyReset_counter (s : State) : (applyReset s).counter = 3 := rfl
@[simp] theorem applyReset_mem (s : State) : (applyReset s).mem = s.mem := rfl
@[simp] theorem applyReset_draws (s : State) : (applyReset s).draws = s.draws := rfl
@[simp] theorem applyReset_bus (s : State) : (applyReset s).bus = s.bus := rfl
@[simp] theorem applyReset_params (s : State) : (applyReset s).params = s.params := rfl

/-! ### What a register write leaves alone -/

@[simp] theorem setReg_cpsr (s : State) (i : Reg) (v : Word) : (s.setReg i v).cpsr = s.cpsr := by unfold State.setReg; split <;> rfl
@[simp] theorem setReg_spsr (s : State) (i : Reg) (v : Word) : (s.setReg i v).spsr = s.spsr := by unfold State.setReg; split <;> rfl
@[simp] theorem setReg_fetchSlot (s : State) (i : Reg) (v : Word) : (s.setReg i v).fetchSlot = s.fetchSlot := by unfold State.setReg; split <;> rfl
@[simp] theorem setReg_decodeSlot (s : State) (i : Reg) (v : Word) : (s.setReg i v).decodeSlot = s.decodeSlot := by unfold State.setReg; split <;> rfl
@[simp] theorem setReg_executeSlot (s : State) (i : Reg) (v : Word) : (s.setReg i v).executeSlot = s.executeSlot := by unfold State.setReg; split <;> rfl
@[simp] theorem setReg_mem (s : State) (i : Reg) (v : Word) : (s.setReg i v).mem = s.mem := by unfold State.setReg; split <;> rfl
@[simp] theorem setReg_draws (s : State) (i : Reg) (v : Word) : (s.setReg i v).draws = s.draws := by unfold State.setReg; split <;> rfl
@[simp] theorem setReg_bus (s : State) (i : Reg) (v : Word) : (s.setReg i v).bus = s.bus := by unfold State.setReg; split <;> rfl
@[simp] theorem setReg_params (s : State) (i : Reg) (v : Word) : (s.setReg i v).params = s.params := by unfold State.setReg; split <;> rfl

@[simp] theorem setUserReg_cpsr (s : State) (i : Reg) (v : Word) : (s.setUserReg i v).cpsr = s.cpsr := by unfold State.setUserReg; split <;> rfl
@[simp] theorem setUserReg_spsr (s : State) (i : Reg) (v : Word) : (s.setUserReg i v).spsr = s.spsr := by unfold State.setUserReg; split <;> rfl
@[simp] theorem setUserReg_fetchSlot (s : State) (i : Reg) (v : Word) : (s.setUserReg i v).fetchSlot = s.fetchSlot := by unfold State.setUserReg; split <;> rfl
@[simp] theorem setUserReg_decodeSlot (s : State) (i : Reg) (v : Word) : (s.setUserReg i v).decodeSlot = s.decodeSlot := by unfold State.setUserReg; split <;> rfl
@[simp] theorem setUserReg_executeSlot (s : State) (i : Reg) (v : Word) : (s.setUserReg i v).executeSlot = s.executeSlot := by unfold State.setUserReg; split <;> rfl
@[simp] theorem setUserReg_mem (s : State) (i : Reg) (v : Word) : (s.setUserReg i v).mem = s.mem := by unfold State.setUserReg; split <;> rfl
@[simp] theorem setUserReg_draws (s : State) (i : Reg) (v : Word) : (s.setUserReg i v).draws = s.draws := by unfold State.setUserReg; split <;> rfl
@[simp] theorem setUserReg_bus (s : State) (i : Reg) (v : Word) : (s.setUserReg i v).bus = s.bus := by unfold State.setUserReg; split <;> rfl
@[simp] theorem setUserReg_params (s : State) (i : Reg) (v : Word) : (s.setUserReg i v).params = s.params := by unfold State.setUserReg; split <;> rfl

@[simp] theorem writeBack_cpsr (s : State) (n : Reg) (ea : EffAddr) : (s.writeBack n ea).cpsr = s.cpsr := by
  unfold State.writeBack; split <;> simp
@[simp] theorem writeBack_spsr (s : State) (n : Reg) (ea : EffAddr) : (s.writeBack n ea).spsr = s.spsr := by
  unfold State.writeBack; split <;> simp
@[simp] theorem writeBack_fetchSlot (s : State) (n : Reg) (ea : EffAddr) : (s.writeBack n ea).fetchSlot = s.fetchSlot := by
  unfold State.writeBack; split <;> simp
@[simp] theorem writeBack_decodeSlot (s : State) (n : Reg) (ea : EffAddr) : (s.writeBack n ea).decodeSlot = s.decodeSlot := by
  unfold State.writeBack; split <;> simp
@[simp] theorem writeBack_executeSlot (s : State) (n : Reg) (ea : EffAddr) : (s.writeBack n ea).executeSlot = s.executeSlot := by
  unfold State.writeBack; split <;> simp
@[simp] theorem writeBack_mem (s : State) (n : Reg) (ea : EffAddr) : (s.writeBack n ea).mem = s.mem := by
  unfold State.writeBack; split <;> simp
@[simp] theorem writeBack_draws (s : State) (n : Reg) (ea : EffAddr) : (s.writeBack n ea).draws = s.draws := by
  unfold State.writeBack; split <;> simp
@[simp] theorem writeBack_bus (s : State) (n : Reg) (ea : EffAddr) : (s.writeBack n ea).bus = s.bus := by
  unfold State.writeBack; split <;> simp
@[simp] theorem writeBack_params (s : State) (n : Reg) (ea : EffAddr) : (s.writeBack n ea).params = s.params := by
  unfold State.writeBack; split <;> simp

@[simp] theorem blockWriteBack_cpsr (s : State) (a : Mode4) (v : Word) : (blockWriteBack a v s).cpsr = s.cpsr := by
  unfold blockWriteBack; split <;> simp
@[simp] theorem blockWriteBack_spsr (s : State) (a : Mode4) (v : Word) : (blockWriteBack a v s).spsr = s.spsr := by
  unfold blockWriteBack; split <;> simp
@[simp] theorem blockWriteBack_fetchSlot (s : State) (a : Mode4) (v : Word) : (blockWriteBack a v s).fetchSlot = s.fetchSlot := by
  unfold blockWriteBack; split <;> simp
@[simp] theorem blockWriteBack_decodeSlot (s : State) (a : Mode4) (v : Word) : (blockWriteBack a v s).decodeSlot = s.decodeSlot := by
  unfold blockWriteBack; split <;> simp
@[simp] theorem blockWriteBack_executeSlot (s : State) (a : Mode4) (v : Word) : (blockWriteBack a v s).executeSlot = s.executeSlot := by
  unfold blockWriteBack; split <;> simp
@[simp] theorem blockWriteBack_mem (s : State) (a : Mode4) (v : Word) : (blockWriteBack a v s).mem = s.mem := by
  unfold blockWriteBack; split <;> simp
@[simp] theorem blockWriteBack_draws (s : State) (a : Mode4) (v : Word) : (blockWriteBack a v s).draws = s.draws := by
  unfold blockWriteBack; split <;> simp
@[simp] theorem blockWriteBack_bus (s : State) (a : Mode4) (v : Word) : (blockWriteBack a v s).bus = s.bus := by
  unfold blockWriteBack; split <;> simp
@[simp] theorem blockWriteBack_params (s : State) (a : Mode4) (v : Word) : (blockWriteBack a v s).params = s.params := by
  unfold blockWriteBack; split <;> simp

@[simp] theorem returnFromException_spsr (s : State) (v : Word) : (returnFromException v s).spsr = s.spsr := by
  unfold returnFromException; split <;> try split
  all_goals rfl
@[simp] theorem returnFromException_fetchSlot (s : State) (v : Word) : (returnFromException v s).fetchSlot = s.fetchSlot := by
  unfold returnFromException; split <;> try split
  all_goals rfl
@[simp] theorem returnFromException_decodeSlot (s : State) (v : Word) : (returnFromException v s).decodeSlot = s.decodeSlot := by
  unfold returnFromException; split <;> try split
  all_goals rfl
@[simp] theorem returnFromException_executeSlot (s : State) (v : Word) : (returnFromException v s).executeSlot = s.executeSlot := by
  unfold returnFromException; split <;> try split
  all_goals rfl
@[simp] theorem returnFromException_mem (s : State) (v : Word) : (returnFromException v s).mem = s.mem := by
  unfold returnFromException; split <;> try split
  all_goals rfl
@[simp] theorem returnFromException_draws (s : State) (v : Word) : (returnFromException v s).draws = s.draws := by
  unfold returnFromException; split <;> try split
  all_goals rfl
@[simp] theorem returnFromException_bus (s : State) (v : Word) : (returnFromException v s).bus = s.bus := by
  unfold returnFromException; split <;> try split
  all_goals rfl
@[simp] theorem returnFromException_params (s : State) (v : Word) : (returnFromException v s).params = s.params := by
  unfold returnFromException; split <;> try split
  all_goals rfl
@[simp] theorem returnFromException_regs (s : State) (v : Word) : (returnFromException v s).regs = s.regs := by
  unfold returnFromException; split <;> try split
  all_goals rfl

@[simp] theorem writeSpsr_regs (s : State) (mask : BitVec 4) (v : Word) : (s.writeSpsr mask v).regs = s.regs := by
  unfold State.writeSpsr; split <;> rfl
@[simp] theorem writeSpsr_pc (s : State) (mask : BitVec 4) (v : Word) : (s.writeSpsr mask v).pc = s.pc := by
  unfold State.writeSpsr; split <;> rfl
@[simp] theorem writeSpsr_cpsr (s : State) (mask : BitVec 4) (v : Word) : (s.writeSpsr mask v).cpsr = s.cpsr := by
  unfold State.writeSpsr; split <;> rfl
@[simp] theorem writeSpsr_fetchSlot (s : State) (mask : BitVec 4) (v : Word) : (s.writeSpsr mask v).fetchSlot = s.fetchSlot := by
  unfold State.writeSpsr; split <;> rfl
@[simp] theorem writeSpsr_decodeSlot (s : State) (mask : BitVec 4) (v : Word) : (s.writeSpsr mask v).decodeSlot = s.decodeSlot := by
  unfold State.writeSpsr; split <;> rfl
@[simp] theorem writeSpsr_executeSlot (s : State) (mask : BitVec 4) (v : Word) : (s.writeSpsr mask v).executeSlot = s.executeSlot := by
  unfold State.writeSpsr; split <;> rfl
@[simp] theorem writeSpsr_counter (s : State) (mask : BitVec 4) (v : Word) : (s.writeSpsr mask v).counter = s.counter := by
  unfold State.writeSpsr; split <;> rfl
@[simp] theorem writeSpsr_mem (s : State) (mask : BitVec 4) (v : Word) : (s.writeSpsr mask v).mem = s.mem := by
  unfold State.writeSpsr; split <;> rfl
@[simp] theorem writeSpsr_draws (s : State) (mask : BitVec 4) (v : Word) : (s.writeSpsr mask v).draws = s.draws := by
  unfold State.writeSpsr; split <;> rfl
@[simp] theorem writeSpsr_bus (s : State) (mask : BitVec 4) (v : Word) : (s.writeSpsr mask v).bus = s.bus := by
  unfold State.writeSpsr; split <;> rfl
@[simp] theorem writeSpsr_params (s : State) (mask : BitVec 4) (v : Word) : (s.writeSpsr mask v).params = s.params := by
  unfold State.writeSpsr; split <;> rfl

/-! ### The halted state (R409) -/

@[simp] theorem haltedState_regs (s : State) : (haltedState s).regs = s.regs := rfl
@[simp] theorem haltedState_pc (s : State) : (haltedState s).pc = s.pc := rfl
@[simp] theorem haltedState_cpsr (s : State) : (haltedState s).cpsr = s.cpsr := rfl
@[simp] theorem haltedState_spsr (s : State) : (haltedState s).spsr = s.spsr := rfl
@[simp] theorem haltedState_fetchSlot (s : State) : (haltedState s).fetchSlot = s.load32 s.pc := rfl
@[simp] theorem haltedState_decodeSlot (s : State) : (haltedState s).decodeSlot = s.fetchSlot := rfl
@[simp] theorem haltedState_executeSlot (s : State) : (haltedState s).executeSlot = s.decodeSlot := rfl
@[simp] theorem haltedState_counter (s : State) : (haltedState s).counter = s.counter := rfl
@[simp] theorem haltedState_mem (s : State) : (haltedState s).mem = s.mem := rfl
@[simp] theorem haltedState_draws (s : State) : (haltedState s).draws = s.draws := rfl
@[simp] theorem haltedState_bus (s : State) : (haltedState s).bus = s.busAs (.read .word s.pc :: s.bus) := rfl
@[simp] theorem haltedState_params (s : State) : (haltedState s).params = s.params := rfl

/-! ### Reading through an update -/

theorem cellOf_congr {s t : State} (hp : t.params = s.params) (hc : t.cpsr.modeCode = s.cpsr.modeCode) (i : Fin 15) :
    t.cellOf i = s.cellOf i := by unfold State.cellOf; rw [hp, hc]

theorem userCellOf_congr {s t : State} (hp : t.params = s.params) (i : Fin 15) : t.userCellOf i = s.userCellOf i := by
  unfold State.userCellOf; rw [hp]

theorem exc?_congr {s t : State} (hp : t.params = s.params) (hc : t.cpsr.modeCode = s.cpsr.modeCode) : t.exc? = s.exc? := by
  unfold State.exc?; rw [hp, hc]

/-- The reference context (R440). -/
theorem exc?_reference {s : State} (h : s.params.ctx = .reference) : s.exc? = s.mode.exc? := by
  unfold State.exc?; rw [h]; rfl

theorem savedSpsr_reference {s : State} (h : s.params.ctx = .reference) (m : ExcMode) :
    s.savedSpsr m.code = s.spsr.set m s.cpsr := by
  unfold State.savedSpsr spsrIn; rw [h]; cases m <;> rfl

theorem linked_reference {s : State} (h : s.params.ctx = .reference) (code : BitVec 5) (v : Word) :
    s.linked code v = s.regs.set (home (Mode.ofCode code) 14) v := by
  unfold State.linked cellIn; rw [h]

theorem cellOf_reference {s : State} (h : s.params.ctx = .reference) (i : Fin 15) : s.cellOf i = home s.mode i := by
  unfold State.cellOf cellIn; rw [h]; rfl

theorem userCellOf_reference {s : State} (h : s.params.ctx = .reference) (i : Fin 15) : s.userCellOf i = .usr i := by
  unfold State.userCellOf cellIn; rw [h]; rfl

@[simp] theorem mode_setReg (s : State) (i : Reg) (v : Word) : (s.setReg i v).mode = s.mode := by simp [State.mode]

@[simp] theorem mode_setUserReg (s : State) (i : Reg) (v : Word) : (s.setUserReg i v).mode = s.mode := by simp [State.mode]

@[simp] theorem mode_writePc (s : State) (v : Word) : (s.writePc v).mode = s.mode := rfl

@[simp] theorem mode_withFlags (s : State) (n z c v : Bool) : (s.withFlags n z c v).mode = s.mode := rfl

@[simp] theorem mode_commitFlags (s : State) (r : AluResult) : (s.commitFlags r).mode = s.mode := rfl

@[simp] theorem mode_writeBack (s : State) (n : Reg) (ea : EffAddr) : (s.writeBack n ea).mode = s.mode := by simp [State.mode]

@[simp] theorem mode_blockWriteBack (s : State) (a : Mode4) (v : Word) : (blockWriteBack a v s).mode = s.mode := by
  simp [State.mode]

end Sys2Proof.Laws
end

