-- ==== Sys2Proof/Laws/Registers.lean ====
section
/-! SUPPORT. Laws of the registers: the banks, a read after a write, and which physical register a write reaches. -/

namespace Sys2Proof.Laws

open Sys2Proof Sys2Proof.Machine

/-- In one mode, two register numbers are never the same physical register. -/
theorem home_injective (m : Mode) : ∀ i j : Fin 15, home m i = home m j → i = j := by
  cases m <;> decide

/-- Under one mode code, in any context, two register numbers are never the same physical register. -/
theorem cellIn_injective (ctx : ContextPolicy) (code : BitVec 5) (i j : Fin 15) (h : cellIn ctx code i = cellIn ctx code j) :
    i = j := by
  cases ctx with
  | reference => exact home_injective _ i j h
  | given => exact RegCell.usr.inj ((Config.ctxBanks code).injective h)

theorem get_set_self (r : RegFile) (c : RegCell) (v : Word) : (r.set c v).get c = v := by
  cases c <;> simp [RegFile.get, RegFile.set]

theorem get_set_ne (r : RegFile) (c c' : RegCell) (v : Word) (h : c' ≠ c) : (r.set c v).get c' = r.get c' := by
  cases c <;> cases c' <;> simp only [RegFile.get, RegFile.set, ne_eq, RegCell.usr.injEq, RegCell.fiq.injEq, RegCell.irq.injEq,
    RegCell.svc.injEq, RegCell.abt.injEq, RegCell.und.injEq] at h ⊢
  all_goals exact Vector.getElem_set_ne _ _ fun e => h (Fin.ext e.symm)

/-- `allCells` lists every physical register. -/
theorem mem_allCells (c : RegCell) : c ∈ allCells := by
  have h15 : ∀ i : Fin 15, .usr i ∈ allCells := by decide
  have h7 : ∀ i : Fin 7, .fiq i ∈ allCells := by decide
  have h2 : ∀ i : Fin 2, .irq i ∈ allCells ∧ .svc i ∈ allCells ∧ .abt i ∈ allCells ∧ .und i ∈ allCells := by decide
  cases c with
  | usr i => exact h15 i
  | fiq i => exact h7 i
  | irq i => exact (h2 i).1
  | svc i => exact (h2 i).2.1
  | abt i => exact (h2 i).2.2.1
  | und i => exact (h2 i).2.2.2

theorem setReg_pc_eq (s : State) (v : Word) : s.setReg Reg.pc v = s.writePc v := rfl

theorem reg_pc (s : State) : s.reg Reg.pc = s.pc := rfl

theorem lt_of_ne_pc {i : Reg} (h : i ≠ Reg.pc) : i.val < 15 := by
  have : i.val ≠ 15 := fun e => h (Fin.ext e)
  omega

/-- A write of a register other than r15 writes its physical register and nothing else. -/
theorem setReg_of_lt (s : State) (i : Reg) (v : Word) (h : i.val < 15) :
    s.setReg i v = { s with regs := s.regs.set (s.cellOf ⟨i.val, h⟩) v } := by simp [State.setReg, h]

theorem reg_of_lt (s : State) (i : Reg) (h : i.val < 15) : s.reg i = s.regs.get (s.cellOf ⟨i.val, h⟩) := by
  simp [State.reg, h]

theorem setReg_regs_get (s : State) (i : Reg) (v : Word) (c : RegCell) (h : s.cell? i ≠ some c) :
    (s.setReg i v).regs.get c = s.regs.get c := by
  unfold State.setReg
  unfold State.cell? at h
  split
  · rename_i hi
    rw [dif_pos hi] at h
    exact get_set_ne _ _ _ _ fun e => h (by rw [e])
  · rfl

theorem setUserReg_regs_get (s : State) (i : Reg) (v : Word) (c : RegCell) (h : s.userCell? i ≠ some c) :
    (s.setUserReg i v).regs.get c = s.regs.get c := by
  unfold State.setUserReg
  unfold State.userCell? at h
  split
  · rename_i hi
    rw [dif_pos hi] at h
    exact get_set_ne _ _ _ _ fun e => h (by rw [e])
  · rfl

/-- What pc and the counter are after a register write: both unchanged, or a PC write. -/
theorem setReg_pc_counter (s : State) (i : Reg) (v : Word) :
    ((s.setReg i v).pc = s.pc ∧ (s.setReg i v).counter = s.counter)
      ∨ ((s.setReg i v).pc = v &&& 0xFFFFFFFC ∧ (s.setReg i v).counter = 3) := by
  unfold State.setReg
  split
  · exact .inl ⟨rfl, rfl⟩
  · exact .inr ⟨rfl, rfl⟩

theorem setUserReg_pc_counter (s : State) (i : Reg) (v : Word) :
    ((s.setUserReg i v).pc = s.pc ∧ (s.setUserReg i v).counter = s.counter)
      ∨ ((s.setUserReg i v).pc = v &&& 0xFFFFFFFC ∧ (s.setUserReg i v).counter = 3) := by
  unfold State.setUserReg
  split
  · exact .inl ⟨rfl, rfl⟩
  · exact .inr ⟨rfl, rfl⟩

theorem cell?_congr {s t : State} (hp : t.params = s.params) (hc : t.cpsr.modeCode = s.cpsr.modeCode) (i : Reg) :
    t.cell? i = s.cell? i := by
  unfold State.cell?; split
  · rw [cellOf_congr hp hc]
  · rfl

theorem userCell?_congr {s t : State} (hp : t.params = s.params) (i : Reg) : t.userCell? i = s.userCell? i := by
  unfold State.userCell?; split
  · rw [userCellOf_congr hp]
  · rfl

end Sys2Proof.Laws
end

