-- ==== Sys2Proof/Laws/Meanings.lean ====
section
/-! SUPPORT. For each shared operation of the meanings, everything it can answer: what the checks let through and what they halt with, and
the next state where it answers one. -/

namespace Sys2Proof.Laws

open Sys2Proof Sys2Proof.Machine

/-! ### The checks -/

theorem guardUnpred_compute (cs : List (UnpredReason × Bool)) (s : State) (k : Outcome) (h : s.params.unpred = .compute) :
    guardUnpred cs s k = k := by simp [guardUnpred, h]

theorem guardUnpred_none (cs : List (UnpredReason × Bool)) (s : State) (k : Outcome) (h : firstReason cs = none) :
    guardUnpred cs s k = k := by
  unfold guardUnpred; rw [h]; split <;> simp_all

theorem guardUnpred_some (cs : List (UnpredReason × Bool)) (s : State) (k : Outcome) (r : UnpredReason)
    (hp : s.params.unpred = .fault) (h : firstReason cs = some r) :
    guardUnpred cs s k = .fault (.unpredictable r (s.pc - 8)) := by simp [guardUnpred, hp, h, State.execAddr]

/-- What the first check answers: the handler's own answer, or a halt. -/
theorem guardUnpred_cases (cs : List (UnpredReason × Bool)) (s : State) (k : Outcome) :
    guardUnpred cs s k = k
      ∨ ∃ r, guardUnpred cs s k = .fault (.unpredictable r (s.pc - 8)) ∧ s.params.unpred = .fault ∧ firstReason cs = some r := by
  unfold guardUnpred
  split
  · exact .inr ⟨_, rfl, ‹_›, ‹_›⟩
  · exact .inl rfl

theorem guardUnpred_next {cs : List (UnpredReason × Bool)} {s t : State} {k : Outcome} (h : guardUnpred cs s k = .next t) :
    k = .next t := by
  rcases guardUnpred_cases cs s k with e | ⟨r, e, -⟩
  · rwa [e] at h
  · rw [e] at h; cases h

theorem guardAligned_pass (n : Width) (ea : Word) (s : State) (k : Outcome)
    (h : s.params.misalign = .arm7tdmi ∨ misaligned n ea = false) : guardAligned n ea s k = k := by
  unfold guardAligned
  rw [if_neg]
  rintro ⟨h1, h2⟩
  rcases h with h | h
  · rw [h] at h1; cases h1
  · rw [h] at h2; cases h2

/-- What the alignment check answers: the handler's own answer, or a halt. -/
theorem guardAligned_cases (n : Width) (ea : Word) (s : State) (k : Outcome) :
    guardAligned n ea s k = k
      ∨ (guardAligned n ea s k = .fault (.misalignedAccess ea n (s.pc - 8)) ∧ s.params.misalign = .fault
          ∧ misaligned n ea = true) := by
  unfold guardAligned
  split
  · rename_i h; exact .inr ⟨rfl, h⟩
  · exact .inl rfl

theorem guardAligned_next {n : Width} {ea : Word} {s t : State} {k : Outcome} (h : guardAligned n ea s k = .next t) :
    k = .next t := by
  rcases guardAligned_cases n ea s k with e | ⟨e, -⟩
  · rwa [e] at h
  · rw [e] at h; cases h

/-! ### The next state of each shared operation -/

theorem dpPlain_next {op : AluOp} {n : Option Reg} {d : Reg} {o : ShifterOperand} {s t : State}
    (h : dpPlain op n d o s = .next t) : t = s.setReg d (aluResult op n o s).value := by
  have := guardUnpred_next h
  cases this; rfl

theorem dpFlags_next {op : AluOp} {n : Option Reg} {d : Reg} {o : ShifterOperand} {s t : State}
    (h : dpFlags op n d o s = .next t) :
    (d = Reg.pc ∧ t = returnFromException (aluResult op n o s).value s)
      ∨ (d ≠ Reg.pc ∧ t = (s.commitFlags (aluResult op n o s)).setReg d (aluResult op n o s).value) := by
  have := guardUnpred_next h
  split at this
  · cases this; exact .inl ⟨‹_›, rfl⟩
  · cases this; exact .inr ⟨‹_›, rfl⟩

theorem dpCompare_next {op : AluOp} {n : Reg} {o : ShifterOperand} {s t : State} (h : dpCompare op n o s = .next t) :
    t = s.commitFlags (aluResult op (some n) o s) := by
  have := guardUnpred_next h
  cases this; rfl

theorem mulLong_next {r : BitVec 64} {dLo dHi m rs : Reg} {s t : State} (h : mulLong r dLo dHi m rs s = .next t) :
    t = s.setPair dLo dHi r := by
  have := guardUnpred_next h
  cases this; rfl

theorem mulLongFlags_next {r : BitVec 64} {dLo dHi m rs : Reg} {s t : State} (h : mulLongFlags r dLo dHi m rs s = .next t) :
    t = (s.setPair dLo dHi r).commitMulLong r := by
  have := guardUnpred_next h
  cases this; rfl

theorem transferWith_next {cs : List (UnpredReason × Bool)} {w : Width} {n : Reg} {ea : EffAddr} {u : State} {dest : State → State}
    {s t : State} (h : transferWith cs w n ea u dest s = .next t) : t = dest (u.writeBack n ea) := by
  have := guardAligned_next (guardUnpred_next h)
  cases this; rfl

theorem loadWith_next {cs : List (UnpredReason × Bool)} {w : Width} {n d : Reg} {ea : EffAddr} {v : Word} {x : Access} {s t : State}
    (h : loadWith cs w n d ea v x s = .next t) : t = ((s.ask x).writeBack n ea).setReg d v := transferWith_next h

theorem storeWith_next {cs : List (UnpredReason × Bool)} {w : Width} {n : Reg} {ea : EffAddr} {u s t : State}
    (h : storeWith cs w n ea u s = .next t) : t = u.writeBack n ea := transferWith_next h

theorem execStm_next {a : Mode4} {s t : State} (h : execStm a s = .next t) :
    t = blockWriteBack a (blockWbAddr a (s.reg a.n))
      (s.storeWords (alignWord (blockStart a (s.reg a.n))) ((blockRegs a).map (storedValue a (blockWbAddr a (s.reg a.n)) s))) := by
  have := guardAligned_next (guardUnpred_next h)
  cases this; rfl

theorem execLdm_next {a : Mode4} {s t : State} (h : execLdm a s = .next t) :
    t = ((blockRegs a).zip (s.loadWords (alignWord (blockStart a (s.reg a.n))) (blockRegs a).length)).foldl (loadOne a)
      (blockWriteBack a (blockWbAddr a (s.reg a.n)) (s.askWords (alignWord (blockStart a (s.reg a.n))) (blockRegs a).length)) := by
  have := guardAligned_next (guardUnpred_next h)
  cases this; rfl

/-- The two answers of BX. -/
theorem execBx_next {m : Reg} {s t : State} (h : execBx m s = .next t) :
    ((s.reg m).getLsbD 0 = true ∧ t = s.exitThumb (s.reg m)) ∨ ((s.reg m).getLsbD 0 = false ∧ t = s.writePc (s.reg m)) := by
  unfold execBx at h
  dsimp only at h
  split at h
  · cases h; exact .inl ⟨‹_›, rfl⟩
  · have := guardUnpred_next h
    cases this; exact .inr ⟨Bool.eq_false_iff.mpr ‹_›, rfl⟩

/-- The answers of the exception return: CPSR from the SPSR of the mode, or, in a mode with none, a PC write. -/
theorem returnFromException_cases (v : Word) (s : State) :
    (∃ m, s.exc? = some m ∧ (s.spsr.get m).t = true
        ∧ returnFromException v s = State.exitThumb { s with cpsr := s.spsr.get m } v)
      ∨ (∃ m, s.exc? = some m ∧ (s.spsr.get m).t = false
        ∧ returnFromException v s = State.writePc { s with cpsr := s.spsr.get m } v)
      ∨ (s.exc? = none ∧ returnFromException v s = s.writePc v) := by
  unfold returnFromException State.currentSpsr
  cases h : s.exc? with
  | none => exact .inr (.inr ⟨rfl, rfl⟩)
  | some m =>
    simp only [Option.map_some]
    split
    · exact .inl ⟨m, rfl, ‹_›, rfl⟩
    · exact .inr (.inl ⟨m, rfl, Bool.eq_false_iff.mpr ‹_›, rfl⟩)

/-- What SWI can answer next: the reference entry, or what the entry given leaves. -/
theorem execSwi_next {comment : BitVec 24} {s t : State} (h : execSwi comment s = .next t) :
    (s.params.swiEntry = .reference ∧ t = takeException .svc (s.execAddr + 4) swiVector false s)
      ∨ (s.params.swiEntry = .given ∧ t = s.enter (Config.swiEntry s.context comment s.execAddr)) := by
  unfold execSwi at h
  split at h <;> cases h
  · exact .inl ⟨‹_›, rfl⟩
  · exact .inr ⟨‹_›, rfl⟩

/-- What UNDEFINED can answer next: the reference entry, or what the entry given leaves. -/
theorem execUndefined_next {c : Cond} {bits : BitVec 28} {s t : State} (h : execUndefined c bits s = .next t) :
    (s.params.undefEntry = .reference ∧ t = takeException .und (s.execAddr + 4) undefVector false s)
      ∨ (s.params.undefEntry = .given ∧ t = s.enter (Config.undefEntry s.context (c.bits ++ bits) s.execAddr)) := by
  unfold execUndefined at h
  split at h <;> cases h
  · exact .inl ⟨‹_›, rfl⟩
  · exact .inr ⟨‹_›, rfl⟩

end Sys2Proof.Laws
end

