-- ==== Sys2Proof/Laws/Memory.lean ====
section
/-! SUPPORT. Laws of memory: a read after a write, and the canonical form, for a byte, for the wider accesses and for the words of a block
transfer. -/

namespace Sys2Proof.Laws

open Sys2Proof Sys2Proof.Machine

/-! ### One byte -/

/-- A write leaves every other address alone, in any list. -/
theorem read_write_ne (m : Memory) (a x : Nat) (b : Byte) (h : x ≠ a) : (m.write a b).read x = m.read x := by
  induction m with
  | nil => simp only [Memory.write, Memory.cons]; split <;> simp [Memory.read, h]
  | cons kv m ih =>
    obtain ⟨k, v⟩ := kv
    simp only [Memory.write, Memory.cons]
    split
    · split <;> simp [Memory.read, h]
    · split
      · subst_vars; split <;> simp [Memory.read, h]
      · simp [Memory.read, ih]

/-- An address below every listed one reads as an unlisted address. -/
theorem read_of_forall_lt (m : Memory) (a : Nat) (h : ∀ x ∈ m, a < x.1) : m.read a = unlistedByte := by
  induction m with
  | nil => rfl
  | cons kv m ih =>
    have hk : a ≠ kv.1 := Nat.ne_of_lt (h kv (by simp))
    simp [Memory.read, hk, ih (fun x hx => h x (by simp [hx]))]

theorem wf_tail {kv : Host.Cell} {m : Memory} (h : Memory.wf (kv :: m)) : m.wf ∧ ∀ x ∈ m, kv.1 < x.1 := by
  obtain ⟨h1, h2⟩ := h
  rw [List.pairwise_cons] at h1
  exact ⟨⟨h1.2, fun x hx => h2 x (by simp [hx])⟩, h1.1⟩

/-- A read after a write of the same byte gives the byte. -/
theorem read_write_self (m : Memory) (a : Nat) (b : Byte) (h : m.wf) : (m.write a b).read a = b := by
  induction m with
  | nil => simp only [Memory.write, Memory.cons]; split <;> simp_all [Memory.read]
  | cons kv m ih =>
    obtain ⟨k, v⟩ := kv
    obtain ⟨h1, h2⟩ := wf_tail h
    simp only [Memory.write, Memory.cons]
    split
    · rename_i hlt
      split
      · rename_i hb
        rw [hb]
        refine read_of_forall_lt _ _ fun x hx => ?_
        rcases List.mem_cons.mp hx with rfl | hx
        · exact hlt
        · exact Nat.lt_trans hlt (h2 x hx)
      · simp [Memory.read]
    · split
      · rename_i hk
        subst hk
        split
        · rename_i hb
          rw [hb]; exact read_of_forall_lt _ _ h2
        · simp [Memory.read]
      · rename_i hk
        simp [Memory.read, hk, ih h1]

theorem mem_write_sub (m : Memory) (a : Nat) (b : Byte) (x : Host.Cell) (hx : x ∈ m.write a b) :
    x ∈ m ∨ (x = (a, b) ∧ b ≠ unlistedByte) := by
  induction m with
  | nil => simp only [Memory.write, Memory.cons] at hx; split at hx <;> simp_all
  | cons kv m ih =>
    obtain ⟨k, v⟩ := kv
    simp only [Memory.write, Memory.cons] at hx
    split at hx
    · split at hx <;> simp_all; tauto
    · split at hx
      · split at hx <;> simp_all; tauto
      · rcases List.mem_cons.mp hx with rfl | hx
        · simp
        · rcases ih hx with h | h
          · simp [h]
          · exact .inr h

/-- A write keeps the canonical form. -/
theorem wf_write (m : Memory) (a : Nat) (b : Byte) (h : m.wf) (ha : a < 2 ^ 32) : (m.write a b).wf := by
  refine ⟨?_, fun x hx => ?_⟩
  · induction m with
    | nil => simp only [Memory.write, Memory.cons]; split <;> simp
    | cons kv m ih =>
      obtain ⟨k, v⟩ := kv
      obtain ⟨h1, h2⟩ := wf_tail h
      simp only [Memory.write, Memory.cons]
      split
      · rename_i hlt
        split
        · exact h.1
        · rw [List.pairwise_cons]
          refine ⟨fun x hx => ?_, h.1⟩
          rcases List.mem_cons.mp hx with rfl | hx
          · exact hlt
          · exact Nat.lt_trans hlt (h2 x hx)
      · split
        · rename_i hk
          subst hk
          split
          · exact h1.1
          · exact List.pairwise_cons.mpr ⟨h2, h1.1⟩
        · rename_i hlt hk
          rw [List.pairwise_cons]
          refine ⟨fun x hx => ?_, ih h1⟩
          rcases mem_write_sub _ _ _ _ hx with hx | ⟨rfl, -⟩
          · exact h2 x hx
          · show k < a; omega
  · rcases mem_write_sub _ _ _ _ hx with hx | ⟨rfl, hb⟩
    · exact h.2 x hx
    · exact ⟨hb, ha⟩

/-! ### Wider accesses -/

theorem read8_write8 (m : Memory) (a b : Word) (v : Byte) (h : m.wf) :
    (m.write8 a v).read8 b = if b = a then v else m.read8 b := by
  unfold Memory.read8 Memory.write8
  split
  · subst_vars; exact read_write_self _ _ _ h
  · exact read_write_ne _ _ _ _ (by simpa [BitVec.toNat_inj] using ‹¬_›)

theorem read8_write8_ne (m : Memory) (a b : Word) (v : Byte) (h : b ≠ a) : (m.write8 a v).read8 b = m.read8 b :=
  read_write_ne _ _ _ _ (by simpa [BitVec.toNat_inj] using h)

theorem wf_write8 (m : Memory) (a : Word) (v : Byte) (h : m.wf) : (m.write8 a v).wf := wf_write _ _ _ h a.isLt

theorem wf_write16 (m : Memory) (a : Word) (v : BitVec 16) (h : m.wf) : (m.write16 a v).wf :=
  wf_write8 _ _ _ (wf_write8 _ _ _ h)

theorem wf_write32 (m : Memory) (a v : Word) (h : m.wf) : (m.write32 a v).wf :=
  wf_write8 _ _ _ (wf_write8 _ _ _ (wf_write8 _ _ _ (wf_write8 _ _ _ h)))

theorem wf_write64 (m : Memory) (a : Word) (v : BitVec 64) (h : m.wf) : (m.write64 a v).wf :=
  wf_write32 _ _ _ (wf_write32 _ _ _ h)

theorem wf_writeWords (vs : List Word) : ∀ (m : Memory) (a : Word), m.wf → (m.writeWords a vs).wf := by
  induction vs with
  | nil => exact fun _ _ h => h
  | cons v vs ih => exact fun m a h => ih _ _ (wf_write32 _ _ _ h)

/-- A word write leaves every byte outside its four alone. -/
theorem read8_write32_ne (m : Memory) (a b v : Word) (h0 : b ≠ a) (h1 : b ≠ a + 1) (h2 : b ≠ a + 2) (h3 : b ≠ a + 3) :
    (m.write32 a v).read8 b = m.read8 b := by
  unfold Memory.write32
  rw [read8_write8_ne _ _ _ _ h3, read8_write8_ne _ _ _ _ h2, read8_write8_ne _ _ _ _ h1, read8_write8_ne _ _ _ _ h0]

/-- The four bytes of a word written. -/
theorem read8_write32 (m : Memory) (a v : Word) (h : m.wf) :
    (m.write32 a v).read8 a = v.extractLsb' 0 8 ∧ (m.write32 a v).read8 (a + 1) = v.extractLsb' 8 8
      ∧ (m.write32 a v).read8 (a + 2) = v.extractLsb' 16 8 ∧ (m.write32 a v).read8 (a + 3) = v.extractLsb' 24 8 := by
  have w0 := wf_write8 m a (v.extractLsb' 0 8) h
  have w1 := wf_write8 _ (a + 1) (v.extractLsb' 8 8) w0
  have w2 := wf_write8 _ (a + 2) (v.extractLsb' 16 8) w1
  unfold Memory.write32
  simp only [read8_write8 _ _ _ _ w2, read8_write8 _ _ _ _ w1, read8_write8 _ _ _ _ w0, read8_write8 _ _ _ _ h]
  refine ⟨?_, ?_, ?_, ?_⟩ <;> simp

/-- A halfword write leaves every byte outside its two alone. -/
theorem read8_write16_ne (m : Memory) (a b : Word) (v : BitVec 16) (h0 : b ≠ a) (h1 : b ≠ a + 1) :
    (m.write16 a v).read8 b = m.read8 b := by
  unfold Memory.write16
  rw [read8_write8_ne _ _ _ _ h1, read8_write8_ne _ _ _ _ h0]

/-- The bytes of a halfword written (R64). -/
theorem read8_write16 (m : Memory) (a : Word) (v : BitVec 16) (h : m.wf) :
    (m.write16 a v).read8 a = v.extractLsb' 0 8 ∧ (m.write16 a v).read8 (a + 1) = v.extractLsb' 8 8 := by
  unfold Memory.write16
  have h1 := wf_write8 m a (v.extractLsb' 0 8) h
  have e : a ≠ a + 1 := by bv_omega
  constructor
  · rw [read8_write8_ne _ _ _ _ e, read8_write8 _ _ _ _ h, if_pos rfl]
  · rw [read8_write8 _ _ _ _ h1, if_pos rfl]

/-- A halfword read after a write of the same halfword gives it. -/
theorem read16_write16 (m : Memory) (a : Word) (v : BitVec 16) (h : m.wf) : (m.write16 a v).read16 a = v := by
  obtain ⟨h0, h1⟩ := read8_write16 m a v h
  unfold Memory.read16
  rw [h0, h1]
  refine BitVec.eq_of_getLsbD_eq fun k hk => ?_
  simp only [BitVec.getLsbD_append, BitVec.getLsbD_extractLsb']
  by_cases h8 : k < 8
  · simp [h8]
  · have : k - 8 < 8 := by omega
    simp only [h8, this, decide_true, Bool.true_and, if_false]
    rw [show 8 + (k - 8) = k by omega]

/-- The bytes of a word put together. -/
theorem word_of_bytes (v : Word) :
    v.extractLsb' 24 8 ++ v.extractLsb' 16 8 ++ v.extractLsb' 8 8 ++ v.extractLsb' 0 8 = v := by
  refine BitVec.eq_of_getLsbD_eq fun i hi => ?_
  simp only [BitVec.getLsbD_append, BitVec.getLsbD_extractLsb']
  split
  · simp [*]
  · split
    · simp only [show 8 + (i - 8) = i by omega, show i - 8 < 8 by omega, decide_true, Bool.true_and]
    · split
      · simp only [show 16 + (i - 8 - 8) = i by omega, show i - 8 - 8 < 8 by omega, decide_true, Bool.true_and]
      · simp only [show 24 + (i - 8 - 8 - 8) = i by omega, show i - 8 - 8 - 8 < 8 by omega, decide_true, Bool.true_and]

/-- A word read after a write of the same word gives it. -/
theorem read32_write32 (m : Memory) (a v : Word) (h : m.wf) : (m.write32 a v).read32 a = v := by
  obtain ⟨h0, h1, h2, h3⟩ := read8_write32 m a v h
  unfold Memory.read32
  rw [h0, h1, h2, h3, word_of_bytes]

/-- A word read is the same in two memories that agree on its four bytes. -/
theorem read32_congr (m m' : Memory) (a : Word) (h : ∀ k : Word, k = 0 ∨ k = 1 ∨ k = 2 ∨ k = 3 → m.read8 (a + k) = m'.read8 (a + k)) :
    m.read32 a = m'.read32 a := by
  unfold Memory.read32
  have h0 : m.read8 a = m'.read8 a := by simpa using h 0 (by simp)
  rw [h0, h 1 (by simp), h 2 (by simp), h 3 (by simp)]

end Sys2Proof.Laws
end

