-- ==== Sys2Proof/Laws/Kept.lean ====
section
/-! SUPPORT. What every instruction keeps: the window's slots, the parameters, the canonical form of memory; and what it can do to pc and the
counter. One lemma for each update and each shared operation, then `exec_kept` for every instruction. -/

namespace Sys2Proof.Laws

open Sys2Proof Sys2Proof.Machine

/-- What stays between two states: the slots, the parameters, the canonical form of memory; pc and the counter stay too, unless pc was
written: then the counter is 3 and pc is aligned. -/
structure Kept (s t : State) : Prop where
  f : t.fetchSlot = s.fetchSlot
  d : t.decodeSlot = s.decodeSlot
  e : t.executeSlot = s.executeSlot
  p : t.params = s.params
  wf : s.mem.wf → t.mem.wf
  pc : (t.pc = s.pc ∧ t.counter = s.counter) ∨ (t.counter = 3 ∧ t.pcAligned)

theorem aligned_and (v : Word) : (v &&& 0xFFFFFFFC).extractLsb' 0 2 = 0 := by
  refine BitVec.eq_of_getLsbD_eq fun i hi => ?_
  simp only [BitVec.getLsbD_extractLsb', BitVec.getLsbD_and]
  have : i = 0 ∨ i = 1 := by omega
  rcases this with rfl | rfl <;> simp

theorem even_and (v : Word) : (v &&& 0xFFFFFFFE).getLsbD 0 = false := by simp

theorem withT_t (p : Psr) (b : Bool) : (p.withT b).t = b := by
  simp only [Psr.withT, Psr.t, BitVec.getLsbD_append, bit]
  simp

theorem Kept.refl (s : State) : Kept s s := ⟨rfl, rfl, rfl, rfl, id, .inl ⟨rfl, rfl⟩⟩

theorem Kept.trans {s t u : State} (h : Kept s t) (g : Kept t u) (hc : u.cpsr = t.cpsr) : Kept s u where
  f := g.f.trans h.f
  d := g.d.trans h.d
  e := g.e.trans h.e
  p := g.p.trans h.p
  wf := fun w => g.wf (h.wf w)
  pc := by
    rcases g.pc with g | g
    · rcases h.pc with h | h
      · exact .inl ⟨g.1.trans h.1, g.2.trans h.2⟩
      · refine .inr ⟨g.2.trans h.1, ?_⟩
        have := h.2
        unfold State.pcAligned State.thumb at *
        rw [g.1, hc]; exact this
    · exact .inr g

theorem kept_setReg (s : State) (i : Reg) (v : Word) : Kept s (s.setReg i v) := by
  refine ⟨by simp, by simp, by simp, by simp, by simp, ?_⟩
  rcases setReg_pc_counter s i v with h | h
  · exact .inl h
  · exact .inr ⟨h.2, .inl (by rw [h.1]; exact aligned_and v)⟩

theorem kept_setUserReg (s : State) (i : Reg) (v : Word) : Kept s (s.setUserReg i v) := by
  refine ⟨by simp, by simp, by simp, by simp, by simp, ?_⟩
  rcases setUserReg_pc_counter s i v with h | h
  · exact .inl h
  · exact .inr ⟨h.2, .inl (by rw [h.1]; exact aligned_and v)⟩

theorem kept_writePc (s : State) (v : Word) : Kept s (s.writePc v) :=
  ⟨rfl, rfl, rfl, rfl, id, .inr ⟨rfl, .inl (aligned_and v)⟩⟩

theorem kept_exitThumb (s : State) (v : Word) : Kept s (s.exitThumb v) :=
  ⟨rfl, rfl, rfl, rfl, id, .inr ⟨rfl, .inr ⟨withT_t _ _, even_and v⟩⟩⟩

theorem kept_return (s : State) (v : Word) : Kept s (returnFromException v s) := by
  rcases returnFromException_cases v s with ⟨m, -, -, e⟩ | ⟨m, -, -, e⟩ | ⟨-, e⟩ <;> rw [e]
  · exact ⟨rfl, rfl, rfl, rfl, id, .inr ⟨rfl, .inr ⟨withT_t _ _, even_and v⟩⟩⟩
  · exact ⟨rfl, rfl, rfl, rfl, id, .inr ⟨rfl, .inl (aligned_and v)⟩⟩
  · exact kept_writePc s v

theorem kept_take (m : ExcMode) (l v : Word) (b : Bool) (s : State) : Kept s (takeException m l v b s) :=
  ⟨rfl, rfl, rfl, rfl, id, .inr ⟨rfl, .inl (aligned_and v)⟩⟩

theorem kept_enter (s : State) (e : Entered) : Kept s (s.enter e) := by
  refine ⟨by simp, by simp, by simp, by simp, by simp, ?_⟩
  rcases enter_pc_counter s e with h | ⟨v, h⟩
  · exact .inl h
  · exact .inr ⟨h.2, .inl (by rw [h.1]; exact aligned_and v)⟩

theorem kept_writeBack (s : State) (n : Reg) (ea : EffAddr) : Kept s (s.writeBack n ea) := by
  unfold State.writeBack; split
  · exact kept_setReg _ _ _
  · exact Kept.refl s

theorem kept_bwb (s : State) (a : Mode4) (v : Word) : Kept s (blockWriteBack a v s) := by
  unfold blockWriteBack; split
  · exact kept_setReg _ _ _
  · exact Kept.refl s

theorem kept_ask (s : State) (x : Access) : Kept s (s.ask x) := ⟨rfl, rfl, rfl, rfl, id, .inl ⟨rfl, rfl⟩⟩

theorem kept_ask64 (s : State) (a : Word) : Kept s (s.ask64 a) := ⟨rfl, rfl, rfl, rfl, id, .inl ⟨rfl, rfl⟩⟩

theorem kept_askWords (s : State) (a : Word) (n : Nat) : Kept s (s.askWords a n) := ⟨rfl, rfl, rfl, rfl, id, .inl ⟨rfl, rfl⟩⟩

theorem wf_memAs (s : State) (m : Memory) (h : s.mem.wf → m.wf) : s.mem.wf → (s.memAs m).wf := by
  rcases memAs_cases s m with e | e <;> rw [e]
  · exact h
  · exact id

theorem kept_store8 (s : State) (a : Word) (v : Byte) : Kept s (s.store8 a v) :=
  ⟨rfl, rfl, rfl, rfl, wf_memAs _ _ (wf_write8 _ _ _), .inl ⟨rfl, rfl⟩⟩

theorem kept_store16 (s : State) (a : Word) (v : BitVec 16) : Kept s (s.store16 a v) :=
  ⟨rfl, rfl, rfl, rfl, wf_memAs _ _ (wf_write16 _ _ _), .inl ⟨rfl, rfl⟩⟩

theorem kept_store32 (s : State) (a v : Word) : Kept s (s.store32 a v) :=
  ⟨rfl, rfl, rfl, rfl, wf_memAs _ _ (wf_write32 _ _ _), .inl ⟨rfl, rfl⟩⟩

theorem kept_store64 (s : State) (a : Word) (v : BitVec 64) : Kept s (s.store64 a v) :=
  ⟨rfl, rfl, rfl, rfl, wf_memAs _ _ (wf_write64 _ _ _), .inl ⟨rfl, rfl⟩⟩

theorem kept_storeWords (s : State) (a : Word) (vs : List Word) : Kept s (s.storeWords a vs) :=
  ⟨rfl, rfl, rfl, rfl, wf_memAs _ _ (wf_writeWords _ _ _), .inl ⟨rfl, rfl⟩⟩

theorem kept_upd (s t : State) (hf : t.fetchSlot = s.fetchSlot) (hd : t.decodeSlot = s.decodeSlot) (he : t.executeSlot = s.executeSlot)
    (hp : t.params = s.params) (hm : t.mem = s.mem) (h1 : t.pc = s.pc) (h2 : t.counter = s.counter) : Kept s t :=
  ⟨hf, hd, he, hp, by rw [hm]; exact id, .inl ⟨h1, h2⟩⟩


/-- As `Kept`, for updates that write no memory and write CPSR only together with pc. -/
def KeptC (s t : State) : Prop :=
  t.fetchSlot = s.fetchSlot ∧ t.decodeSlot = s.decodeSlot ∧ t.executeSlot = s.executeSlot ∧ t.params = s.params ∧ t.mem = s.mem
  ∧ ((t.pc = s.pc ∧ t.counter = s.counter ∧ t.cpsr = s.cpsr) ∨ (t.counter = 3 ∧ t.pcAligned))

theorem KeptC.trans {s t u : State} (h : KeptC s t) (g : KeptC t u) : KeptC s u := by
  obtain ⟨h1, h2, h3, h4, h5, h6⟩ := h
  obtain ⟨g1, g2, g3, g4, g5, g6⟩ := g
  refine ⟨g1.trans h1, g2.trans h2, g3.trans h3, g4.trans h4, g5.trans h5, ?_⟩
  rcases g6 with ⟨a, b, c⟩ | g
  · rcases h6 with ⟨a', b', c'⟩ | ⟨a', b'⟩
    · exact .inl ⟨a.trans a', b.trans b', c.trans c'⟩
    · refine .inr ⟨b.trans a', ?_⟩
      unfold State.pcAligned State.thumb at *
      rw [a, c]; exact b'
  · exact .inr g

theorem KeptC.kept {s t : State} (h : KeptC s t) : Kept s t := by
  obtain ⟨h1, h2, h3, h4, h5, h6⟩ := h
  exact ⟨h1, h2, h3, h4, by rw [h5]; exact id, h6.imp (fun h => ⟨h.1, h.2.1⟩) id⟩

theorem keptC_of {s t : State} (h : Kept s t) (hm : t.mem = s.mem) (hc : t.cpsr = s.cpsr) : KeptC s t :=
  ⟨h.f, h.d, h.e, h.p, hm, h.pc.imp (fun h => ⟨h.1, h.2, hc⟩) id⟩

theorem keptC_loadOne (a : Mode4) (s : State) (iv : Reg × Word) : KeptC s (loadOne a s iv) := by
  unfold loadOne
  split
  · split
    · rcases returnFromException_cases iv.2 s with ⟨m, -, -, e⟩ | ⟨m, -, -, e⟩ | ⟨-, e⟩ <;> rw [e]
      · exact ⟨rfl, rfl, rfl, rfl, rfl, .inr ⟨rfl, .inr ⟨withT_t _ _, even_and _⟩⟩⟩
      · exact ⟨rfl, rfl, rfl, rfl, rfl, .inr ⟨rfl, .inl (aligned_and _)⟩⟩
      · exact ⟨rfl, rfl, rfl, rfl, rfl, .inr ⟨rfl, .inl (aligned_and _)⟩⟩
    · exact ⟨rfl, rfl, rfl, rfl, rfl, .inr ⟨rfl, .inl (aligned_and _)⟩⟩
  · split
    · exact keptC_of (kept_setUserReg _ _ _) (by simp) (by simp)
    · exact keptC_of (kept_setReg _ _ _) (by simp) (by simp)

theorem keptC_foldl (a : Mode4) (l : List (Reg × Word)) : ∀ s : State, KeptC s (l.foldl (loadOne a) s) := by
  induction l with
  | nil => exact fun s => ⟨rfl, rfl, rfl, rfl, rfl, .inl ⟨rfl, rfl, rfl⟩⟩
  | cons x l ih => exact fun s => (keptC_loadOne a s x).trans (ih _)

theorem kept_dpPlain {op n d o s t} (h : dpPlain op n d o s = .next t) : Kept s t := by
  rw [dpPlain_next h]; exact kept_setReg _ _ _

theorem kept_flags (s : State) (r : AluResult) : Kept s (s.commitFlags r) := ⟨rfl, rfl, rfl, rfl, id, .inl ⟨rfl, rfl⟩⟩

theorem kept_dpFlags {op n d o s t} (h : dpFlags op n d o s = .next t) : Kept s t := by
  rcases dpFlags_next h with ⟨-, e⟩ | ⟨-, e⟩ <;> rw [e]
  · exact kept_return _ _
  · exact (kept_flags s _).trans (kept_setReg _ _ _) (by simp)

theorem kept_dpCompare {op n o s t} (h : dpCompare op n o s = .next t) : Kept s t := by
  rw [dpCompare_next h]; exact kept_flags _ _

theorem kept_pair (s : State) (dLo dHi : Reg) (r : BitVec 64) : Kept s (s.setPair dLo dHi r) :=
  (kept_setReg _ _ _).trans (kept_setReg _ _ _) (setReg_cpsr _ _ _)

theorem kept_mulLong {r dLo dHi m rs s t} (h : mulLong r dLo dHi m rs s = .next t) : Kept s t := by
  rw [mulLong_next h]; exact kept_pair _ _ _ _

theorem kept_after (s t u : State) (h : Kept s t) (hf : u.fetchSlot = t.fetchSlot) (hd : u.decodeSlot = t.decodeSlot) (he : u.executeSlot = t.executeSlot)
    (hp : u.params = t.params) (hm : u.mem = t.mem) (h1 : u.pc = t.pc) (h2 : u.counter = t.counter) (h3 : u.cpsr.rest = t.cpsr.rest) : Kept s u := by
  refine ⟨hf.trans h.f, hd.trans h.d, he.trans h.e, hp.trans h.p, by rw [hm]; exact h.wf, ?_⟩
  rcases h.pc with g | g
  · exact .inl ⟨h1.trans g.1, h2.trans g.2⟩
  · refine .inr ⟨h2.trans g.1, ?_⟩
    have := g.2
    unfold State.pcAligned State.thumb Psr.t at *
    rw [h1, h3]; exact this

theorem kept_mulLongFlags {r dLo dHi m rs s t} (h : mulLongFlags r dLo dHi m rs s = .next t) : Kept s t := by
  rw [mulLongFlags_next h]; exact kept_after _ _ _ (kept_pair s dLo dHi r) rfl rfl rfl rfl rfl rfl rfl rfl

theorem kept_mul {cs s d r t} (h : guardUnpred cs s (.next (State.setReg s d r)) = .next t) : Kept s t := by
  have := guardUnpred_next h; cases this; exact kept_setReg _ _ _

theorem kept_muls {cs s d r t} (h : guardUnpred cs s (.next (State.commitMul (State.setReg s d r) r)) = .next t) : Kept s t := by
  have := guardUnpred_next h; cases this
  exact kept_after _ _ _ (kept_setReg s d r) rfl rfl rfl rfl rfl rfl rfl rfl

theorem kept_store {cs w n ea u s t} (h : storeWith cs w n ea u s = .next t) (hu : Kept s u) : Kept s t := by
  rw [storeWith_next h]; exact hu.trans (kept_writeBack _ _ _) (by simp)

/-- What every instruction keeps. -/
theorem exec_kept (i : Instr) (s t : State) (h : exec i s = .next t) : Kept s t := by
  cases i
  case stm c a =>
    rw [execStm_next h]
    exact (kept_storeWords _ _ _).trans (kept_bwb _ _ _) (by simp)
  case ldm c a =>
    rw [execLdm_next h]
    exact (((keptC_of (kept_askWords _ _ _) rfl rfl).trans (keptC_of (kept_bwb _ _ _) (by simp) (by simp))).trans (keptC_foldl _ _ _)).kept
  case bx c m =>
    rcases execBx_next h with ⟨-, e⟩ | ⟨-, e⟩ <;> rw [e]
    · exact kept_exitThumb _ _
    · exact kept_writePc _ _
  case b c imm => cases h; exact kept_writePc _ _
  case bl c imm => cases h; exact (kept_setReg _ _ _).trans (kept_writePc _ _) rfl
  case mrsCpsr c d => exact kept_mul h
  case mrsSpsr c d =>
    have := guardUnpred_next h
    split at this
    · cases this; exact kept_setReg _ _ _
    · cases this; exact (kept_upd s { s with draws := s.draws + 1 } rfl rfl rfl rfl rfl rfl rfl).trans (kept_setReg { s with draws := s.draws + 1 } _ _) (by simp)
  case msrCpsr c m o => have := guardUnpred_next h; cases this; exact kept_upd _ _ rfl rfl rfl rfl rfl rfl rfl
  case msrSpsr c m o => have := guardUnpred_next h; cases this; exact kept_upd _ _ (by simp) (by simp) (by simp) (by simp) (by simp) (by simp) (by simp)
  case swi c x =>
    rcases execSwi_next h with ⟨-, e⟩ | ⟨-, e⟩ <;> rw [e]
    · exact kept_take _ _ _ _ _
    · exact kept_enter _ _
  case undefined c x =>
    rcases execUndefined_next h with ⟨-, e⟩ | ⟨-, e⟩ <;> rw [e]
    · exact kept_take _ _ _ _ _
    · exact kept_enter _ _
  case swp c d m n =>
    have := guardAligned_next (guardUnpred_next h); cases this
    exact ((kept_ask _ _).trans (kept_store32 _ _ _) rfl).trans (kept_setReg _ _ _) (by simp)
  case swpb c d m n =>
    have := (guardUnpred_next h); cases this
    exact ((kept_ask _ _).trans (kept_store8 _ _ _) rfl).trans (kept_setReg _ _ _) (by simp)
  case ldrd c d a =>
    have := guardAligned_next (guardUnpred_next h); cases this
    exact (((kept_ask64 _ _).trans (kept_writeBack _ _ _) (by simp)).trans (kept_setReg _ _ _) (by simp)).trans
      (kept_setReg _ _ _) (by simp)
  case mul => exact kept_mul h
  case mla => exact kept_mul h
  case muls => exact kept_muls h
  case mlas => exact kept_muls h
  case strh => exact kept_store h (kept_store16 _ _ _)
  case strd => exact kept_store h (kept_store64 _ _ _)
  case str => exact kept_store h (kept_store32 _ _ _)
  case strt => exact kept_store h (kept_store32 _ _ _)
  case strb => exact kept_store h (kept_store8 _ _ _)
  case strbt => exact kept_store h (kept_store8 _ _ _)
  case ldr | ldrb | ldrt | ldrbt | ldrh | ldrsb | ldrsh =>
    rw [loadWith_next h]
    exact ((kept_ask _ _).trans (kept_writeBack _ _ _) (by simp)).trans (kept_setReg _ _ _) (by simp)
  case tst | teq | cmp | cmn => exact kept_dpCompare h
  case umull | umlal | smull | smlal => exact kept_mulLong h
  case umulls | umlals | smulls | smlals => exact kept_mulLongFlags h
  case and | eor | sub | rsb | add | adc | sbc | rsc | orr | mov | bic | mvn => exact kept_dpPlain h
  all_goals exact kept_dpFlags h

end Sys2Proof.Laws
end

