-- ==== Sys2Proof/Laws/Operands.lean ====
section
/-! SUPPORT. The bits of shifts and rotates, the checks of the handlers as propositions, and the rank of a register in a list. -/

namespace Sys2Proof.Laws

open Sys2Proof Sys2Proof.Machine

/-! ### Shifts -/

theorem rotateRight_bit (v : Word) (n i : Nat) (hi : i < 32) : (v.rotateRight n).getLsbD i = v.getLsbD ((i + n) % 32) := by
  rw [BitVec.getLsbD_rotateRight]
  have : n % 32 < 32 := Nat.mod_lt _ (by omega)
  by_cases h : i < 32 - n % 32
  · simp only [h, decide_true, cond_true]; rw [show n % 32 + i = (i + n) % 32 by omega]
  · simp only [h, hi, decide_true, decide_false, cond_false, Bool.true_and]
    rw [show i - (32 - n % 32) = (i + n) % 32 by omega]

theorem shiftLeft_bit (v : Word) (n i : Nat) (hi : i < 32) : (v <<< n).getLsbD i = (decide (n ≤ i) && v.getLsbD (i - n)) := by
  rw [BitVec.getLsbD_shiftLeft]; simp only [hi, decide_true, Bool.true_and]
  by_cases h : i < n
  · simp [h]
  · simp [h, show n ≤ i by omega]

theorem sshiftRight_bit (v : Word) (n i : Nat) (hi : i < 32) : (v.sshiftRight n).getLsbD i = v.getLsbD (min (i + n) 31) := by
  rw [BitVec.getLsbD_sshiftRight]
  have : ¬32 ≤ i := by omega
  simp only [this, decide_false, Bool.not_false, Bool.true_and]
  split
  · rw [show min (i + n) 31 = n + i by omega]
  · rw [show min (i + n) 31 = 31 by omega, msb_eq_bit31]

/-- An arithmetic shift by 32 or more fills the word with the sign. -/
theorem signFill_bit (v : Word) (i n : Nat) (hi : i < 32) (hn : 32 ≤ n) :
    (if v.msb = true then (0xFFFFFFFF : Word) else 0).getLsbD i = v.getLsbD (min (i + n) 31) := by
  rw [show min (i + n) 31 = 31 by omega, msb_eq_bit31]
  cases v.getLsbD 31
  · simp
  · simp only [if_true]
    rw [show (0xFFFFFFFF : Word) = BitVec.allOnes 32 by decide, BitVec.getLsbD_allOnes]; simp [hi]

/-! ### Checks -/

theorem firstReason_nil : firstReason [] = none := rfl

theorem firstReason_cons (r : UnpredReason) (b : Bool) (l : List (UnpredReason × Bool)) :
    firstReason ((r, b) :: l) = if b = true then some r else firstReason l := by
  unfold firstReason; cases b <;> simp [List.find?]

theorem shifterChecks_none (used : List Reg) (o : ShifterOperand) (h : avoidsPc used o) :
    firstReason (shifterChecks used o) = none := by
  unfold shifterChecks
  cases o with
  | shiftReg t rs m =>
    obtain ⟨h1, h2, h3⟩ := h
    have e1 : (rs == Reg.pc) = false := by simpa using h1
    have e2 : (m :: used).contains Reg.pc = false := by
      simp only [List.contains_eq_mem, List.mem_cons, decide_eq_false_iff_not, not_or]
      exact ⟨fun e => h2 e.symm, h3⟩
    rw [firstReason_cons, firstReason_cons, firstReason_nil, e1, e2]; rfl
  | _ => rfl

theorem index2Wb_iff (ix : Index2) : index2Wb ix = true ↔ ix ≠ .offset := by cases ix <;> simp [index2Wb]

theorem index3Wb_iff (ix : Index3) : index3Wb ix = true ↔ ix ≠ .offset := by cases ix <;> simp [index3Wb]

theorem offset2IsPc_iff (o : Offset2) : offset2IsPc o = true ↔ ∃ t amt, o = .reg t amt Reg.pc := by
  cases o <;> simp [offset2IsPc]

theorem offset3IsPc_iff (o : Offset3) : offset3IsPc o = true ↔ o = .reg Reg.pc := by cases o <;> simp [offset3IsPc]

/-! ### Register lists -/

/-- The registers of a list are as many as the rank of register 16 in it. -/
theorem listRegs_length (l : BitVec 16) : (listRegs l).length = rank l 16 := by
  unfold listRegs rank
  have : List.range 16 = allRegs.map Fin.val := by decide
  rw [this, List.filter_map, List.length_map]; rfl

end Sys2Proof.Laws
end

