-- ==== Sys2Proof/Laws/PerInstr.lean ====
section
/-! SUPPORT. Statements for all instructions, one lemma for each constructor of Instr. -/

namespace Sys2Proof.Laws

/-- The word of a well-formed instruction lands in the cell of the dispatch table that holds the instruction's own handler and
resolver. -/
def EncodedCell.Statement (i : Instr) : Prop :=
  i.wellFormed = true → table (rowOf (encode i)) (colOf (encode i)) = (i.handler, i.resolver)

theorem EncodedCell.and (c : Cond) (n d : Reg) (o : ShifterOperand) : EncodedCell.Statement (.and c n d o) :=
  fun _ => cell_dp _ _ _ _ _ _ (by decide)

theorem EncodedCell.ands (c : Cond) (n d : Reg) (o : ShifterOperand) : EncodedCell.Statement (.ands c n d o) :=
  fun _ => cell_dp _ _ _ _ _ _ (by decide)

theorem EncodedCell.eor (c : Cond) (n d : Reg) (o : ShifterOperand) : EncodedCell.Statement (.eor c n d o) :=
  fun _ => cell_dp _ _ _ _ _ _ (by decide)

theorem EncodedCell.eors (c : Cond) (n d : Reg) (o : ShifterOperand) : EncodedCell.Statement (.eors c n d o) :=
  fun _ => cell_dp _ _ _ _ _ _ (by decide)

theorem EncodedCell.sub (c : Cond) (n d : Reg) (o : ShifterOperand) : EncodedCell.Statement (.sub c n d o) :=
  fun _ => cell_dp _ _ _ _ _ _ (by decide)

theorem EncodedCell.subs (c : Cond) (n d : Reg) (o : ShifterOperand) : EncodedCell.Statement (.subs c n d o) :=
  fun _ => cell_dp _ _ _ _ _ _ (by decide)

theorem EncodedCell.rsb (c : Cond) (n d : Reg) (o : ShifterOperand) : EncodedCell.Statement (.rsb c n d o) :=
  fun _ => cell_dp _ _ _ _ _ _ (by decide)

theorem EncodedCell.rsbs (c : Cond) (n d : Reg) (o : ShifterOperand) : EncodedCell.Statement (.rsbs c n d o) :=
  fun _ => cell_dp _ _ _ _ _ _ (by decide)

theorem EncodedCell.add (c : Cond) (n d : Reg) (o : ShifterOperand) : EncodedCell.Statement (.add c n d o) :=
  fun _ => cell_dp _ _ _ _ _ _ (by decide)

theorem EncodedCell.adds (c : Cond) (n d : Reg) (o : ShifterOperand) : EncodedCell.Statement (.adds c n d o) :=
  fun _ => cell_dp _ _ _ _ _ _ (by decide)

theorem EncodedCell.adc (c : Cond) (n d : Reg) (o : ShifterOperand) : EncodedCell.Statement (.adc c n d o) :=
  fun _ => cell_dp _ _ _ _ _ _ (by decide)

theorem EncodedCell.adcs (c : Cond) (n d : Reg) (o : ShifterOperand) : EncodedCell.Statement (.adcs c n d o) :=
  fun _ => cell_dp _ _ _ _ _ _ (by decide)

theorem EncodedCell.sbc (c : Cond) (n d : Reg) (o : ShifterOperand) : EncodedCell.Statement (.sbc c n d o) :=
  fun _ => cell_dp _ _ _ _ _ _ (by decide)

theorem EncodedCell.sbcs (c : Cond) (n d : Reg) (o : ShifterOperand) : EncodedCell.Statement (.sbcs c n d o) :=
  fun _ => cell_dp _ _ _ _ _ _ (by decide)

theorem EncodedCell.rsc (c : Cond) (n d : Reg) (o : ShifterOperand) : EncodedCell.Statement (.rsc c n d o) :=
  fun _ => cell_dp _ _ _ _ _ _ (by decide)

theorem EncodedCell.rscs (c : Cond) (n d : Reg) (o : ShifterOperand) : EncodedCell.Statement (.rscs c n d o) :=
  fun _ => cell_dp _ _ _ _ _ _ (by decide)

theorem EncodedCell.tst (c : Cond) (n : Reg) (o : ShifterOperand) : EncodedCell.Statement (.tst c n o) :=
  fun _ => cell_dp _ _ _ _ _ _ (by decide)

theorem EncodedCell.teq (c : Cond) (n : Reg) (o : ShifterOperand) : EncodedCell.Statement (.teq c n o) :=
  fun _ => cell_dp _ _ _ _ _ _ (by decide)

theorem EncodedCell.cmp (c : Cond) (n : Reg) (o : ShifterOperand) : EncodedCell.Statement (.cmp c n o) :=
  fun _ => cell_dp _ _ _ _ _ _ (by decide)

theorem EncodedCell.cmn (c : Cond) (n : Reg) (o : ShifterOperand) : EncodedCell.Statement (.cmn c n o) :=
  fun _ => cell_dp _ _ _ _ _ _ (by decide)

theorem EncodedCell.orr (c : Cond) (n d : Reg) (o : ShifterOperand) : EncodedCell.Statement (.orr c n d o) :=
  fun _ => cell_dp _ _ _ _ _ _ (by decide)

theorem EncodedCell.orrs (c : Cond) (n d : Reg) (o : ShifterOperand) : EncodedCell.Statement (.orrs c n d o) :=
  fun _ => cell_dp _ _ _ _ _ _ (by decide)

theorem EncodedCell.mov (c : Cond) (d : Reg) (o : ShifterOperand) : EncodedCell.Statement (.mov c d o) :=
  fun _ => cell_dp _ _ _ _ _ _ (by decide)

theorem EncodedCell.movs (c : Cond) (d : Reg) (o : ShifterOperand) : EncodedCell.Statement (.movs c d o) :=
  fun _ => cell_dp _ _ _ _ _ _ (by decide)

theorem EncodedCell.bic (c : Cond) (n d : Reg) (o : ShifterOperand) : EncodedCell.Statement (.bic c n d o) :=
  fun _ => cell_dp _ _ _ _ _ _ (by decide)

theorem EncodedCell.bics (c : Cond) (n d : Reg) (o : ShifterOperand) : EncodedCell.Statement (.bics c n d o) :=
  fun _ => cell_dp _ _ _ _ _ _ (by decide)

theorem EncodedCell.mvn (c : Cond) (d : Reg) (o : ShifterOperand) : EncodedCell.Statement (.mvn c d o) :=
  fun _ => cell_dp _ _ _ _ _ _ (by decide)

theorem EncodedCell.mvns (c : Cond) (d : Reg) (o : ShifterOperand) : EncodedCell.Statement (.mvns c d o) :=
  fun _ => cell_dp _ _ _ _ _ _ (by decide)

theorem EncodedCell.mul (c : Cond) (d m s : Reg) : EncodedCell.Statement (.mul c d m s) :=
  fun _ => (cell_mul _ _ _ _ _ _).trans rfl

theorem EncodedCell.muls (c : Cond) (d m s : Reg) : EncodedCell.Statement (.muls c d m s) :=
  fun _ => (cell_mul _ _ _ _ _ _).trans rfl

theorem EncodedCell.mla (c : Cond) (d m s acc : Reg) : EncodedCell.Statement (.mla c d m s acc) :=
  fun _ => (cell_mul _ _ _ _ _ _).trans rfl

theorem EncodedCell.mlas (c : Cond) (d m s acc : Reg) : EncodedCell.Statement (.mlas c d m s acc) :=
  fun _ => (cell_mul _ _ _ _ _ _).trans rfl

theorem EncodedCell.umull (c : Cond) (dLo dHi m s : Reg) : EncodedCell.Statement (.umull c dLo dHi m s) :=
  fun _ => (cell_mul _ _ _ _ _ _).trans rfl

theorem EncodedCell.umulls (c : Cond) (dLo dHi m s : Reg) : EncodedCell.Statement (.umulls c dLo dHi m s) :=
  fun _ => (cell_mul _ _ _ _ _ _).trans rfl

theorem EncodedCell.umlal (c : Cond) (dLo dHi m s : Reg) : EncodedCell.Statement (.umlal c dLo dHi m s) :=
  fun _ => (cell_mul _ _ _ _ _ _).trans rfl

theorem EncodedCell.umlals (c : Cond) (dLo dHi m s : Reg) : EncodedCell.Statement (.umlals c dLo dHi m s) :=
  fun _ => (cell_mul _ _ _ _ _ _).trans rfl

theorem EncodedCell.smull (c : Cond) (dLo dHi m s : Reg) : EncodedCell.Statement (.smull c dLo dHi m s) :=
  fun _ => (cell_mul _ _ _ _ _ _).trans rfl

theorem EncodedCell.smulls (c : Cond) (dLo dHi m s : Reg) : EncodedCell.Statement (.smulls c dLo dHi m s) :=
  fun _ => (cell_mul _ _ _ _ _ _).trans rfl

theorem EncodedCell.smlal (c : Cond) (dLo dHi m s : Reg) : EncodedCell.Statement (.smlal c dLo dHi m s) :=
  fun _ => (cell_mul _ _ _ _ _ _).trans rfl

theorem EncodedCell.smlals (c : Cond) (dLo dHi m s : Reg) : EncodedCell.Statement (.smlals c dLo dHi m s) :=
  fun _ => (cell_mul _ _ _ _ _ _).trans rfl

theorem EncodedCell.strh (c : Cond) (d : Reg) (a : Mode3) : EncodedCell.Statement (.strh c d a) :=
  fun _ => cell_xt _ _ _ _ _ (by decide)

theorem EncodedCell.ldrh (c : Cond) (d : Reg) (a : Mode3) : EncodedCell.Statement (.ldrh c d a) :=
  fun _ => cell_xt _ _ _ _ _ (by decide)

theorem EncodedCell.ldrsb (c : Cond) (d : Reg) (a : Mode3) : EncodedCell.Statement (.ldrsb c d a) :=
  fun _ => cell_xt _ _ _ _ _ (by decide)

theorem EncodedCell.ldrsh (c : Cond) (d : Reg) (a : Mode3) : EncodedCell.Statement (.ldrsh c d a) :=
  fun _ => cell_xt _ _ _ _ _ (by decide)

theorem EncodedCell.ldrd (c : Cond) (d : Reg) (a : Mode3) : EncodedCell.Statement (.ldrd c d a) :=
  fun _ => cell_xt _ _ _ _ _ (by decide)

theorem EncodedCell.strd (c : Cond) (d : Reg) (a : Mode3) : EncodedCell.Statement (.strd c d a) :=
  fun _ => cell_xt _ _ _ _ _ (by decide)

theorem EncodedCell.ldr (c : Cond) (d : Reg) (a : Mode2) : EncodedCell.Statement (.ldr c d a) :=
  fun _ => (cell_st ..).trans (by cases a with | mk ix up n off => cases ix <;> rfl)

theorem EncodedCell.str (c : Cond) (d : Reg) (a : Mode2) : EncodedCell.Statement (.str c d a) :=
  fun _ => (cell_st ..).trans (by cases a with | mk ix up n off => cases ix <;> rfl)

theorem EncodedCell.ldrb (c : Cond) (d : Reg) (a : Mode2) : EncodedCell.Statement (.ldrb c d a) :=
  fun _ => (cell_st ..).trans (by cases a with | mk ix up n off => cases ix <;> rfl)

theorem EncodedCell.strb (c : Cond) (d : Reg) (a : Mode2) : EncodedCell.Statement (.strb c d a) :=
  fun _ => (cell_st ..).trans (by cases a with | mk ix up n off => cases ix <;> rfl)

theorem EncodedCell.ldrt (c : Cond) (d : Reg) (a : ModeT) : EncodedCell.Statement (.ldrt c d a) :=
  fun _ => cell_st ..

theorem EncodedCell.strt (c : Cond) (d : Reg) (a : ModeT) : EncodedCell.Statement (.strt c d a) :=
  fun _ => cell_st ..

theorem EncodedCell.ldrbt (c : Cond) (d : Reg) (a : ModeT) : EncodedCell.Statement (.ldrbt c d a) :=
  fun _ => cell_st ..

theorem EncodedCell.strbt (c : Cond) (d : Reg) (a : ModeT) : EncodedCell.Statement (.strbt c d a) :=
  fun _ => cell_st ..

theorem EncodedCell.swp (c : Cond) (d m n : Reg) : EncodedCell.Statement (.swp c d m n) :=
  fun _ => (cell_mul _ _ _ _ _ _).trans rfl

theorem EncodedCell.swpb (c : Cond) (d m n : Reg) : EncodedCell.Statement (.swpb c d m n) :=
  fun _ => (cell_mul _ _ _ _ _ _).trans rfl

theorem EncodedCell.b (c : Cond) (imm24 : BitVec 24) : EncodedCell.Statement (.b c imm24) :=
  fun _ => cell_br _ _ _ (by decide) (by decide) (by decide) (by decide)

theorem EncodedCell.bl (c : Cond) (imm24 : BitVec 24) : EncodedCell.Statement (.bl c imm24) :=
  fun _ => cell_br _ _ _ (by decide) (by decide) (by decide) (by decide)

theorem EncodedCell.bx (c : Cond) (m : Reg) : EncodedCell.Statement (.bx c m) :=
  fun _ => cell_bx ..

theorem EncodedCell.mrsCpsr (c : Cond) (d : Reg) : EncodedCell.Statement (.mrsCpsr c d) :=
  fun _ => cell_mrs ..

theorem EncodedCell.mrsSpsr (c : Cond) (d : Reg) : EncodedCell.Statement (.mrsSpsr c d) :=
  fun _ => cell_mrs ..

theorem EncodedCell.msrCpsr (c : Cond) (mask : BitVec 4) (o : PsrOperand) : EncodedCell.Statement (.msrCpsr c mask o) :=
  fun _ => cell_msr ..

theorem EncodedCell.msrSpsr (c : Cond) (mask : BitVec 4) (o : PsrOperand) : EncodedCell.Statement (.msrSpsr c mask o) :=
  fun _ => cell_msr ..

theorem EncodedCell.stm (c : Cond) (a : Mode4) : EncodedCell.Statement (.stm c a) :=
  fun _ => cell_blk ..

theorem EncodedCell.ldm (c : Cond) (a : Mode4) : EncodedCell.Statement (.ldm c a) :=
  fun _ => cell_blk ..

theorem EncodedCell.swi (c : Cond) (comment : BitVec 24) : EncodedCell.Statement (.swi c comment) :=
  fun _ => cell_br _ _ _ (by decide) (by decide) (by decide) (by decide)

theorem EncodedCell.undefined (c : Cond) (bits : BitVec 28) : EncodedCell.Statement (.undefined c bits) :=
  fun h => cell_undefined _ _ h

end Sys2Proof.Laws
end

