-- ==== Sys2Proof/Laws/StatusRegister.lean ====
section
/-! SUPPORT. Laws of the status registers: a PSR and its word, and the bits of a masked write. -/

namespace Sys2Proof.Laws

open Sys2Proof Sys2Proof.Machine

/-- The bits of a PSR's word (R37). -/
theorem toWord_getLsbD (p : Psr) (k : Nat) :
    p.toWord.getLsbD k
      = if k < 28 then p.rest.getLsbD k else if k = 28 then p.v else if k = 29 then p.c else if k = 30 then p.z
        else if k = 31 then p.n else false := by
  simp only [Psr.toWord, bit, BitVec.getLsbD_append]
  by_cases h : k < 28
  · simp [h]
  · rw [if_neg h, if_neg h]
    by_cases h1 : k = 28
    · subst h1; simp
    · by_cases h2 : k = 29
      · subst h2; simp
      · by_cases h3 : k = 30
        · subst h3; simp
        · by_cases h4 : k = 31
          · subst h4; simp
          · rw [if_neg h1, if_neg h2, if_neg h3, if_neg h4]
            simp only [show ¬(k - 28 < 1) by omega, show ¬(k - 28 - 1 < 1) by omega, show ¬(k - 28 - 1 - 1 < 1) by omega, if_false]
            exact BitVec.getLsbD_of_ge _ _ (by omega)

theorem ofWord_toWord (p : Psr) : Psr.ofWord p.toWord = p := by
  have h : p.toWord.extractLsb' 0 28 = p.rest := BitVec.eq_of_getLsbD_eq fun i hi => by
    rw [BitVec.getLsbD_extractLsb', toWord_getLsbD]
    simp [hi]
  unfold Psr.ofWord
  rw [h]
  simp only [toWord_getLsbD]
  rfl

theorem toWord_ofWord (w : Word) : (Psr.ofWord w).toWord = w := by
  refine BitVec.eq_of_getLsbD_eq fun i hi => ?_
  rw [toWord_getLsbD]
  simp only [Psr.ofWord, BitVec.getLsbD_extractLsb']
  split
  · simp [*]
  · split
    · subst_vars; rfl
    · split
      · subst_vars; rfl
      · split
        · subst_vars; rfl
        · rw [if_pos (by omega)]
          congr 1
          omega

/-- A bit of a masked write. -/
theorem mergeBits_getLsbD (old v bits : Word) (k : Nat) (h : k < 32) :
    (mergeBits old v bits).getLsbD k = if bits.getLsbD k then v.getLsbD k else old.getLsbD k := by
  simp only [mergeBits, BitVec.getLsbD_or, BitVec.getLsbD_and, BitVec.getLsbD_not, h, decide_true, Bool.true_and]
  cases bits.getLsbD k <;> simp

/-- The bits a field mask selects are whole bytes (R40). -/
theorem fieldBits_getLsbD (mask : BitVec 4) (k : Nat) (h : k < 32) : (fieldBits mask).getLsbD k = mask.getLsbD (k / 8) := by
  have : ∀ (m : BitVec 4) (k : Fin 32), (fieldBits m).getLsbD k.val = m.getLsbD (k.val / 8) := by decide
  exact this mask ⟨k, h⟩

/-- The bits a mode may write (R367, log 6). -/
theorem writableBits_getLsbD (p : Params) (m : Mode) (k : Nat) (h : k < 32) :
    (writableBits p m).getLsbD k
      = (decide (28 ≤ k) || (if m = .usr then decide (8 ≤ k) && p.userPsrBits.getLsbD k else p.privPsrBits.getLsbD k)) := by
  have c1 : ∀ k : Fin 32, (0xF0000000 : Word).getLsbD k.val = decide (28 ≤ k.val) := by decide
  have c2 : ∀ k : Fin 32, (0x0FFFFF00 : Word).getLsbD k.val = (decide (8 ≤ k.val) && !decide (28 ≤ k.val)) := by decide
  have e1 := c1 ⟨k, h⟩
  have e2 := c2 ⟨k, h⟩
  dsimp only at e1 e2
  cases m <;> simp only [writableBits, BitVec.getLsbD_or, BitVec.getLsbD_and, e1, e2, reduceCtorEq, if_true, if_false]
  case usr => cases p.userPsrBits.getLsbD k <;> cases decide (28 ≤ k) <;> simp
  all_goals exact Bool.or_comm _ _

end Sys2Proof.Laws
end

