-- ==== Sys2Proof/Laws/Steps.lean ====
section
/-! SUPPORT. Everything a step can do: one lemma for each of its three answers, and what the advance after a handler leaves alone. -/

namespace Sys2Proof.Laws

open Sys2Proof Sys2Proof.Machine

/-! ### Phase 3 after a handler -/

@[simp] theorem finish_regs (s : State) : (finish s).regs = s.regs := by unfold finish; split <;> rfl
@[simp] theorem finish_cpsr (s : State) : (finish s).cpsr = s.cpsr := by unfold finish; split <;> rfl
@[simp] theorem finish_spsr (s : State) : (finish s).spsr = s.spsr := by unfold finish; split <;> rfl
@[simp] theorem finish_fetchSlot (s : State) : (finish s).fetchSlot = s.fetchSlot := by unfold finish; split <;> rfl
@[simp] theorem finish_decodeSlot (s : State) : (finish s).decodeSlot = s.decodeSlot := by unfold finish; split <;> rfl
@[simp] theorem finish_executeSlot (s : State) : (finish s).executeSlot = s.executeSlot := by unfold finish; split <;> rfl
@[simp] theorem finish_counter (s : State) : (finish s).counter = s.counter := by unfold finish; split <;> rfl
@[simp] theorem finish_mem (s : State) : (finish s).mem = s.mem := by unfold finish; split <;> rfl
@[simp] theorem finish_draws (s : State) : (finish s).draws = s.draws := by unfold finish; split <;> rfl
@[simp] theorem finish_bus (s : State) : (finish s).bus = s.bus := by unfold finish; split <;> rfl
@[simp] theorem finish_params (s : State) : (finish s).params = s.params := by unfold finish; split <;> rfl

theorem finish_advanced {s : State} (h : s.counter = 0) : (finish s).pc = s.pc + 4 := by
  unfold finish; rw [if_pos h]; rfl

theorem finish_written {s : State} (h : s.counter ≠ 0) : finish s = s := by
  unfold finish; rw [if_neg h]

/-! ### The step -/

/-- A step that goes on: a flushing step, a plain skip, or an instruction and the advance (R400). -/
theorem step_next {s t : State} (h : step s = .next t) :
    s.thumb = false
      ∧ ((s.counter ≠ 0 ∧ t = advance (tick (shift s)))
        ∨ (s.counter = 0 ∧ (shift s).passes (decodeWord s.decodeSlot).cond = false ∧ t = advance (shift s))
        ∨ (s.counter = 0 ∧ (shift s).passes (decodeWord s.decodeSlot).cond = true
            ∧ ∃ u, exec (decodeWord s.decodeSlot) (shift s) = .next u ∧ t = finish u)) := by
  unfold step stepState at h
  split at h
  · cases h
  · refine ⟨Bool.eq_false_iff.mpr ‹_›, ?_⟩
    split at h
    · have e : (shift s).executeSlot = s.decodeSlot := rfl
      rw [e] at h
      unfold act at h
      split at h
      · split at h <;> cases h
        exact .inr (.inr ⟨‹_›, ‹_›, _, ‹_›, rfl⟩)
      · cases h
        exact .inr (.inl ⟨‹_›, Bool.eq_false_iff.mpr ‹_›, rfl⟩)
    · cases h
      exact .inl ⟨‹_›, rfl⟩

/-- A step that halts: its instruction ran, on the halted state, and halted (R409). -/
theorem step_fault {s : State} {f : Fault} (h : step s = .fault f) :
    s.thumb = false ∧ s.counter = 0 ∧ (shift s).passes (decodeWord s.decodeSlot).cond = true
      ∧ exec (decodeWord s.decodeSlot) (haltedState s) = .fault f := by
  unfold step stepState at h
  split at h
  · cases h
  · refine ⟨Bool.eq_false_iff.mpr ‹_›, ?_⟩
    split at h
    · have e : (shift s).executeSlot = s.decodeSlot := rfl
      rw [e] at h
      unfold act at h
      split at h
      · split at h <;> cases h
        exact ⟨‹_›, ‹_›, ‹_›⟩
      · cases h
    · cases h

/-- The slots after a step that goes on (R401). -/
theorem step_slots {s t : State} (h : step s = .next t) :
    t.executeSlot = s.decodeSlot ∧ t.decodeSlot = s.fetchSlot ∧ t.fetchSlot = s.load32 s.pc := by
  obtain ⟨-, ⟨-, e⟩ | ⟨-, -, e⟩ | ⟨-, -, u, hu, e⟩⟩ := step_next h <;> rw [e]
  · exact ⟨rfl, rfl, rfl⟩
  · exact ⟨rfl, rfl, rfl⟩
  · have k := exec_kept _ _ _ hu
    rw [finish_executeSlot, finish_decodeSlot, finish_fetchSlot, k.e, k.d, k.f]
    exact ⟨rfl, rfl, rfl⟩

end Sys2Proof.Laws
end

