-- ==== Sys2Proof/Tests/Slice0.lean ====
section
/-! SUPPORT. The tests: a smoke test of well-formedness, a decoding of every constructor from a word written bit by bit by the
formats of spec/30_encoding.md, one step for each instruction with the vectors of spec/95_test_vectors.md (or hand calculation
from the rule named), and for each obligation with hypotheses a witness that meets them. -/

namespace Sys2Proof.Tests

open Sys2Proof Sys2Proof.Machine

/-! ### Helpers -/

/-- System mode with T = 0, between two steps, about to execute at A = 0x08000000, with the flags NZCV and the registers
given. -/
def start (nzcv : BitVec 4) (regs : List (Reg × Word)) : State :=
  regs.foldl (fun s r => s.setReg r.1 r.2)
    { State.reset with
      pc := 0x08000008, counter := 0,
      cpsr := ⟨nzcv.getLsbD 3, nzcv.getLsbD 2, nzcv.getLsbD 1, nzcv.getLsbD 0, 0x1F⟩ }

/-- The same state with words in memory. -/
def withWords (s : State) (ws : List (Word × Word)) : State :=
  ws.foldl (fun s w => { s with mem := s.mem.write32 w.1 w.2 }) s

/-- The same state in another mode. -/
def inMode (code : BitVec 28) (s : State) : State := { s with cpsr := { s.cpsr with rest := code } }

/-- The same state under the parameters' defaults (spec/00_scope.md R9). -/
def strict (s : State) : State :=
  { s with
    params := { s.params with
      unpred := .fault, misalign := .fault, undefEntry := .absent, swiEntry := .absent, interruptEntry := .absent } }

/-- The same state with entry functions of which nothing is known. -/
def foreign (s : State) : State :=
  { s with params := { s.params with undefEntry := .given, swiEntry := .given, interruptEntry := .given } }

/-- The same state with a memory that is not the default. -/
def otherMemory (s : State) : State := { s with params := { s.params with mem := .given } }

/-- The next step runs the word. -/
def run (w : Nat) (s : State) : Outcome := step (s.withFetchWord 32 w)

/-- Registers after a step. -/
def regs (is : List Reg) (o : Outcome) : Option (List Word) :=
  match o with
  | .next t => some (is.map t.reg)
  | _ => none

/-- The flags NZCV after a step. -/
def nzcv (o : Outcome) : Option (List Bool) :=
  match o with
  | .next t => some [t.cpsr.n, t.cpsr.z, t.cpsr.c, t.cpsr.v]
  | _ => none

/-- N, Z and V after a step, where C is drawn. -/
def nzv (o : Outcome) : Option (List Bool) :=
  match o with
  | .next t => some [t.cpsr.n, t.cpsr.z, t.cpsr.v]
  | _ => none

/-- Words of memory after a step. -/
def words (as : List Word) (o : Outcome) : Option (List Word) :=
  match o with
  | .next t => some (as.map t.mem.read32)
  | _ => none

/-- pc and the counter after a step. -/
def flow (o : Outcome) : Option (Word × BitVec 2) :=
  match o with
  | .next t => some (t.pc, t.counter)
  | _ => none

/-- The CPSR after a step, as a word. -/
def cpsr (o : Outcome) : Option Word :=
  match o with
  | .next t => some t.cpsr.toWord
  | _ => none

/-- Why a step halted. -/
def halt (o : Outcome) : Option Fault :=
  match o with
  | .fault f => some f
  | _ => none

/-- `op r2, r0, r1` on r0 = a, r1 = b: r2 and the flags. -/
def alu (w : Nat) (flags : BitVec 4) (a b : Word) : Option (List Word) × Option (List Bool) :=
  let o := run w (start flags [(0, a), (1, b)])
  (regs [2] o, nzcv o)

/-! ### Well-formedness -/

/-- R107: row 0x10 with column 0, which is MRS, is no UNDEFINED cell; the encoder's word of that ill-formed term is not it. -/
theorem test_illformed_undefined :
    (Instr.undefined .al 0x10F0000).wellFormed = false ∧ decodeWord (encode (.undefined .al 0x10F0000)) = .mrsCpsr .al 0
    ∧ (Instr.undefined .al 0x0400090).wellFormed = true ∧ (Instr.undefined .nv 0x7F000F0).wellFormed = true := by decide

/-! ### Decoding -/

/-- R93-R95, R104: the words, bit by bit. -/
theorem test_decode_arithmetic :
    decodeWord 0b0000_001_0000_0_0001_0010_0011_00000101 = .and .eq 1 2 (.imm 3 5)
    ∧ decodeWord 0b0010_000_0000_1_0010_0100_00111_01_0_0100 = .ands .cs 2 4 (.shiftImm .lsr 7 4)
    ∧ decodeWord 0b0011_000_0001_0_0101_1001_10010_10_0_1011 = .eor .cc 5 9 (.shiftImm .asr 18 11)
    ∧ decodeWord 0b0101_000_0001_1_0110_1011_1110_0_11_1_1100 = .eors .pl 6 11 (.shiftReg .ror 14 12)
    ∧ decodeWord 0b0110_000_0010_0_1001_0000_0111_0_00_1_0011 = .sub .vs 9 0 (.shiftReg .lsl 7 3)
    ∧ decodeWord 0b0010_001_0010_1_0111_1100_0101_01001111 = .subs .cs 7 12 (.imm 5 79)
    ∧ decodeWord 0b0011_001_0011_0_1010_0001_0110_01110100 = .rsb .cc 10 1 (.imm 6 116)
    ∧ decodeWord 0b0101_000_0011_1_1011_0011_01000_00_0_1001 = .rsbs .pl 11 3 (.shiftImm .lsl 8 9)
    ∧ decodeWord 0b0110_000_0100_0_1110_1000_10011_01_0_0000 = .add .vs 14 8 (.shiftImm .lsr 19 0)
    ∧ decodeWord 0b1000_000_0100_1_1111_1010_1001_0_10_1_0001 = .adds .hi 15 10 (.shiftReg .asr 9 1)
    ∧ decodeWord 0b1001_000_0101_0_0010_1111_0010_0_11_1_1000 = .adc .ls 2 15 (.shiftReg .ror 2 8)
    ∧ decodeWord 0b0101_001_0101_1_0000_1011_1000_10111110 = .adcs .pl 0 11 (.imm 8 190)
    ∧ decodeWord 0b0110_001_0110_0_0011_0000_1001_11100011 = .sbc .vs 3 0 (.imm 9 227)
    ∧ decodeWord 0b1000_000_0110_1_0100_0010_01001_11_0_1110 = .sbcs .hi 4 2 (.shiftImm .ror 9 14)
    ∧ decodeWord 0b1001_000_0111_0_0111_0111_10100_00_0_0101 = .rsc .ls 7 7 (.shiftImm .lsl 20 5)
    ∧ decodeWord 0b1011_000_0111_1_1000_1001_0100_0_01_1_0110 = .rscs .lt 8 9 (.shiftReg .lsr 4 6) := by decide

/-- R93-R95, R104: the words, bit by bit. -/
theorem test_decode_logical :
    decodeWord 0b1100_000_1000_1_1011_0000_1101_0_10_1_1101 = .tst .gt 11 (.shiftReg .asr 13 13)
    ∧ decodeWord 0b1001_001_1001_1_1100_0000_1100_01010010 = .teq .ls 12 (.imm 12 82)
    ∧ decodeWord 0b1100_000_1010_1_0000_0000_10101_11_0_1010 = .cmp .gt 0 (.shiftImm .ror 21 10)
    ∧ decodeWord 0b0000_000_1011_1_0100_0000_1000_0_01_1_0010 = .cmn .eq 4 (.shiftReg .lsr 8 2)
    ∧ decodeWord 0b1100_001_1100_0_0101_1110_1111_11000001 = .orr .gt 5 14 (.imm 15 193)
    ∧ decodeWord 0b0001_000_1100_1_0111_0010_0001_0_10_1_1001 = .orrs .ne 7 2 (.shiftReg .asr 1 9)
    ∧ decodeWord 0b0000_000_1101_0_0000_0101_10110_10_0_1111 = .mov .eq 5 (.shiftImm .asr 22 15)
    ∧ decodeWord 0b1101_001_1101_1_0000_0011_0000_11100110 = .movs .le 3 (.imm 0 230)
    ∧ decodeWord 0b0011_000_1110_0_1101_1100_0011_0_00_1_0111 = .bic .cc 13 12 (.shiftReg .lsl 3 7)
    ∧ decodeWord 0b0001_000_1110_1_1100_1010_00001_11_0_0110 = .bics .ne 12 10 (.shiftImm .ror 1 6)
    ∧ decodeWord 0b0000_001_1111_0_0000_1101_0010_00110000 = .mvn .eq 13 (.imm 2 48)
    ∧ decodeWord 0b0100_000_1111_1_0000_0001_1100_0_01_1_1110 = .mvns .mi 1 (.shiftReg .lsr 12 14) := by decide

/-- R96, R97: the words, bit by bit. -/
theorem test_decode_multiplyAndSwap :
    decodeWord 0b1110_000000_0_0_0001_0000_1001_1001_1100 = .mul .al 1 12 9
    ∧ decodeWord 0b1110_000000_0_1_0001_0000_1001_1001_1100 = .muls .al 1 12 9
    ∧ decodeWord 0b1110_000000_1_0_0001_0101_1001_1001_1100 = .mla .al 1 12 9 5
    ∧ decodeWord 0b1110_000000_1_1_0001_0101_1001_1001_1100 = .mlas .al 1 12 9 5
    ∧ decodeWord 0b0001_00001_0_0_0_0010_0111_1011_1001_0100 = .umull .ne 7 2 4 11
    ∧ decodeWord 0b0001_00001_0_0_1_0010_0111_1011_1001_0100 = .umulls .ne 7 2 4 11
    ∧ decodeWord 0b0001_00001_0_1_0_0010_0111_1011_1001_0100 = .umlal .ne 7 2 4 11
    ∧ decodeWord 0b0001_00001_0_1_1_0010_0111_1011_1001_0100 = .umlals .ne 7 2 4 11
    ∧ decodeWord 0b0001_00001_1_0_0_0010_0111_1011_1001_0100 = .smull .ne 7 2 4 11
    ∧ decodeWord 0b0001_00001_1_0_1_0010_0111_1011_1001_0100 = .smulls .ne 7 2 4 11
    ∧ decodeWord 0b0001_00001_1_1_0_0010_0111_1011_1001_0100 = .smlal .ne 7 2 4 11
    ∧ decodeWord 0b0001_00001_1_1_1_0010_0111_1011_1001_0100 = .smlals .ne 7 2 4 11
    ∧ decodeWord 0b1110_00010_0_00_0110_0011_0000_1001_1010 = .swp .al 3 10 6
    ∧ decodeWord 0b1110_00010_1_00_0110_0011_0000_1001_1010 = .swpb .al 3 10 6 := by decide

/-- R98: the words, bit by bit. -/
theorem test_decode_extendedTransfers :
    decodeWord 0b1110_000_1_0_0_0_0_0101_1000_0000_1_01_1_1001 = .strh .al 8 ⟨.offset, false, 5, .reg 9⟩
    ∧ decodeWord 0b1110_000_1_1_1_1_0_0101_1000_1010_1_01_1_0011 = .strh .al 8 ⟨.pre, true, 5, .imm 0xA3⟩
    ∧ decodeWord 0b1110_000_1_1_0_1_1_0101_1000_0000_1_01_1_1001 = .ldrh .al 8 ⟨.pre, true, 5, .reg 9⟩
    ∧ decodeWord 0b1110_000_1_0_1_0_1_0101_1000_1010_1_01_1_0011 = .ldrh .al 8 ⟨.offset, false, 5, .imm 0xA3⟩
    ∧ decodeWord 0b1110_000_1_0_0_0_1_0101_1000_0000_1_10_1_1001 = .ldrsb .al 8 ⟨.offset, false, 5, .reg 9⟩
    ∧ decodeWord 0b1110_000_1_1_1_1_1_0101_1000_1010_1_10_1_0011 = .ldrsb .al 8 ⟨.pre, true, 5, .imm 0xA3⟩
    ∧ decodeWord 0b1110_000_1_1_0_1_1_0101_1000_0000_1_11_1_1001 = .ldrsh .al 8 ⟨.pre, true, 5, .reg 9⟩
    ∧ decodeWord 0b1110_000_1_0_1_0_1_0101_1000_1010_1_11_1_0011 = .ldrsh .al 8 ⟨.offset, false, 5, .imm 0xA3⟩
    ∧ decodeWord 0b1110_000_1_0_0_0_0_0101_1000_0000_1_10_1_1001 = .ldrd .al 8 ⟨.offset, false, 5, .reg 9⟩
    ∧ decodeWord 0b1110_000_1_1_1_1_0_0101_1000_1010_1_10_1_0011 = .ldrd .al 8 ⟨.pre, true, 5, .imm 0xA3⟩
    ∧ decodeWord 0b1110_000_1_1_0_1_0_0101_1000_0000_1_11_1_1001 = .strd .al 8 ⟨.pre, true, 5, .reg 9⟩
    ∧ decodeWord 0b1110_000_1_0_1_0_0_0101_1000_1010_1_11_1_0011 = .strd .al 8 ⟨.offset, false, 5, .imm 0xA3⟩ := by decide

/-- R100: the words, bit by bit. -/
theorem test_decode_singleTransfers :
    decodeWord 0b1110_010_1_0_0_0_1_0011_1011_100111000101 = .ldr .al 11 ⟨.offset, false, 3, .imm 0x9C5⟩
    ∧ decodeWord 0b1110_011_1_1_0_1_1_0011_1011_10011_01_0_0110 = .ldr .al 11 ⟨.pre, true, 3, .reg .lsr 19 6⟩
    ∧ decodeWord 0b1110_010_0_0_0_0_1_0011_1011_100111000101 = .ldr .al 11 ⟨.post, false, 3, .imm 0x9C5⟩
    ∧ decodeWord 0b1110_010_0_1_0_1_1_0011_1011_100111000101 = .ldrt .al 11 ⟨true, 3, .imm 0x9C5⟩
    ∧ decodeWord 0b1110_011_1_1_0_0_0_0011_1011_10011_01_0_0110 = .str .al 11 ⟨.offset, true, 3, .reg .lsr 19 6⟩
    ∧ decodeWord 0b1110_010_1_0_0_1_0_0011_1011_100111000101 = .str .al 11 ⟨.pre, false, 3, .imm 0x9C5⟩
    ∧ decodeWord 0b1110_010_0_1_0_0_0_0011_1011_100111000101 = .str .al 11 ⟨.post, true, 3, .imm 0x9C5⟩
    ∧ decodeWord 0b1110_011_0_0_0_1_0_0011_1011_10011_00_0_0110 = .strt .al 11 ⟨false, 3, .reg .lsl 19 6⟩
    ∧ decodeWord 0b1110_010_1_0_1_0_1_0011_1011_100111000101 = .ldrb .al 11 ⟨.offset, false, 3, .imm 0x9C5⟩
    ∧ decodeWord 0b1110_010_1_1_1_1_1_0011_1011_100111000101 = .ldrb .al 11 ⟨.pre, true, 3, .imm 0x9C5⟩
    ∧ decodeWord 0b1110_011_0_0_1_0_1_0011_1011_10011_00_0_0110 = .ldrb .al 11 ⟨.post, false, 3, .reg .lsl 19 6⟩
    ∧ decodeWord 0b1110_010_0_1_1_1_1_0011_1011_100111000101 = .ldrbt .al 11 ⟨true, 3, .imm 0x9C5⟩
    ∧ decodeWord 0b1110_010_1_1_1_0_0_0011_1011_100111000101 = .strb .al 11 ⟨.offset, true, 3, .imm 0x9C5⟩
    ∧ decodeWord 0b1110_011_1_0_1_1_0_0011_1011_10011_00_0_0110 = .strb .al 11 ⟨.pre, false, 3, .reg .lsl 19 6⟩
    ∧ decodeWord 0b1110_010_0_1_1_0_0_0011_1011_100111000101 = .strb .al 11 ⟨.post, true, 3, .imm 0x9C5⟩
    ∧ decodeWord 0b1110_010_0_0_1_1_0_0011_1011_100111000101 = .strbt .al 11 ⟨false, 3, .imm 0x9C5⟩ := by decide

/-- R101: the words, bit by bit. -/
theorem test_decode_blockTransfers :
    decodeWord 0b1110_100_1_0_0_1_0_1101_1000110000110001 = .stm .al ⟨true, false, false, true, 13, 0x8C31⟩
    ∧ decodeWord 0b1110_100_0_1_0_1_1_1101_1000110000110001 = .ldm .al ⟨false, true, false, true, 13, 0x8C31⟩
    ∧ decodeWord 0b1110_100_0_0_1_0_0_1101_1000110000110001 = .stm .al ⟨false, false, true, false, 13, 0x8C31⟩
    ∧ decodeWord 0b1110_100_1_1_1_0_1_1101_1000110000110001 = .ldm .al ⟨true, true, true, false, 13, 0x8C31⟩ := by decide

/-- R102, R107: the words, bit by bit. -/
theorem test_decode_branchesAndTraps :
    decodeWord 0b0000_101_0_111111111111111111111110 = .b .eq 0xFFFFFE
    ∧ decodeWord 0b1110_101_1_000100100011010001010110 = .bl .al 0x123456
    ∧ decodeWord 0b1110_00010010_111111111111_0001_1110 = .bx .al 14
    ∧ decodeWord 0b1110_1111_101010111100110111101111 = .swi .al 0xABCDEF
    ∧ decodeWord 0b1110_110_1001000110100010101100111 = .undefined .al 0xD234567
    ∧ decodeWord 0b1110_1110_000000000000000000010000 = .undefined .al 0xE000010 := by decide

/-- R99: the words, bit by bit. -/
theorem test_decode_statusRegisters :
    decodeWord 0b1110_00010_0_00_1111_0101_000000000000 = .mrsCpsr .al 5
    ∧ decodeWord 0b1110_00010_1_00_1111_0110_000000000000 = .mrsSpsr .al 6
    ∧ decodeWord 0b1110_00010_0_10_1001_1111_00000000_0100 = .msrCpsr .al 9 (.reg 4)
    ∧ decodeWord 0b1110_00010_1_10_1111_1111_00000000_0011 = .msrSpsr .al 15 (.reg 3)
    ∧ decodeWord 0b1110_00110_0_10_1000_1111_0010_11110000 = .msrCpsr .al 8 (.imm 2 0xF0)
    ∧ decodeWord 0b1110_00110_1_10_0001_1111_0000_00011111 = .msrSpsr .al 1 (.imm 0 0x1F) := by decide
/-- R90, R145: fewer than four bytes are no word. -/
theorem test_decode_short : decode [0x03, 0x20, 0x81] = .error .truncated := by decide

/-! ### One step of each instruction -/

theorem test_and : alu 0xE0002001 0b0000 0xF0F0F0F0 0xFF00FF00 = (some [0xF000F000], some [false, false, false, false]) := by
  decide
theorem test_ands : alu 0xE0102001 0b1011 0xF0F0F0F0 0x0F0F0F0F = (some [0], some [false, true, true, true]) := by decide
theorem test_eor : alu 0xE0202001 0b0000 0xFFFF0000 0x0F0F0F0F = (some [0xF0F00F0F], some [false, false, false, false]) := by
  decide
theorem test_eors : alu 0xE0302001 0b0001 0xFFFF0000 0x0F0F0F0F = (some [0xF0F00F0F], some [true, false, false, true]) := by
  decide
theorem test_sub : alu 0xE0402001 0b0101 5 3 = (some [2], some [false, true, false, true]) := by decide
theorem test_subs : alu 0xE0502001 0b0000 0x7FFFFFFF 0xFFFFFFFF = (some [0x80000000], some [true, false, false, true]) := by
  decide
theorem test_subs_no_borrow : alu 0xE0502001 0b0000 5 3 = (some [2], some [false, false, true, false]) := by decide
theorem test_rsb : alu 0xE0602001 0b0000 5 0 = (some [0xFFFFFFFB], some [false, false, false, false]) := by decide
theorem test_rsbs : alu 0xE0702001 0b0000 0x80000000 0 = (some [0x80000000], some [true, false, false, true]) := by decide
theorem test_add : regs [2] (run 0xE0812003 (start 0b0100 [(1, 1), (3, 2)])) = some [3]
    ∧ nzcv (run 0xE0812003 (start 0b0100 [(1, 1), (3, 2)])) = some [false, true, false, false] := by decide
theorem test_add_pc : regs [0] (run 0xE08F0000 (start 0 [(0, 4)])) = some [0x0800000C] := by decide
theorem test_adds : alu 0xE0902001 0b0000 0x80000000 0x80000000 = (some [0], some [false, true, true, true]) := by decide
theorem test_adc : alu 0xE0A02001 0b0010 1 2 = (some [4], some [false, false, true, false]) := by decide
theorem test_adcs : alu 0xE0B02001 0b0010 0x7FFFFFFF 0 = (some [0x80000000], some [true, false, false, true]) := by decide
theorem test_adcs_wrap : alu 0xE0B02001 0b0010 0xFFFFFFFF 0 = (some [0], some [false, true, true, false]) := by decide
theorem test_sbc : alu 0xE0C02001 0b0000 5 3 = (some [1], some [false, false, false, false])
    ∧ alu 0xE0C02001 0b0010 5 3 = (some [2], some [false, false, true, false]) := by decide
theorem test_sbcs : alu 0xE0D02001 0b0000 0 0 = (some [0xFFFFFFFF], some [true, false, false, false]) := by decide
theorem test_rsc : alu 0xE0E02001 0b0000 3 10 = (some [6], some [false, false, false, false]) := by decide
theorem test_rscs : alu 0xE0F02001 0b0000 3 10 = (some [6], some [false, false, true, false]) := by decide
theorem test_tst : alu 0xE1100001 0b0000 0x10 0x10 = (some [0], some [false, false, false, false])
    ∧ alu 0xE1100001 0b0000 0x10 0x01 = (some [0], some [false, true, false, false]) := by decide
theorem test_teq : alu 0xE1300001 0b1000 0x12345678 0x12345678 = (some [0], some [false, true, false, false]) := by decide
theorem test_cmp : nzcv (run 0xE1512002 (start 0 [(1, 1), (2, 1)])) = some [false, true, true, false]
    ∧ regs [2] (run 0xE1512002 (start 0 [(1, 1), (2, 1)])) = some [1] := by decide
theorem test_cmn : alu 0xE1700001 0b0000 0xFFFFFFFF 1 = (some [0], some [false, true, true, false]) := by decide
theorem test_orr : alu 0xE1802001 0b0000 0x0000FF00 0x000000FF = (some [0x0000FFFF], some [false, false, false, false]) := by
  decide
theorem test_orrs : alu 0xE1902001 0b0101 0x80000000 0x000000FF = (some [0x800000FF], some [true, false, false, true]) := by
  decide
theorem test_mov : regs [0] (run 0xE3A004FF (start 0 [])) = some [0xFF000000]
    ∧ nzcv (run 0xE3A004FF (start 0 [])) = some [false, false, false, false] := by decide
theorem test_mov_pc : flow (run 0xE1A0F00E (start 0 [(14, 0x08000123)])) = some (0x08000120, 3) := by decide
theorem test_movs : regs [6] (run 0xE1B060A0 (start 0 [(0, 0xFFFFFFFF)])) = some [0x7FFFFFFF]
    ∧ nzcv (run 0xE1B060A0 (start 0 [(0, 0xFFFFFFFF)])) = some [false, false, true, false] := by decide
/-- R233: `MOVS pc, lr` in Undefined mode, with SPSR_und = 0x0000001F. -/
theorem test_movs_return :
    let s : State := State.setReg { inMode 0x9B (start 0 []) with
      spsr := { State.reset.spsr with und := Psr.ofWord 0x1F } } 14 0x08000008
    cpsr (run 0xE1B0F00E s) = some 0x1F ∧ flow (run 0xE1B0F00E s) = some (0x08000008, 3) := by decide
theorem test_bic : alu 0xE1C02001 0b0000 0xFFFFFFFF 0xF = (some [0xFFFFFFF0], some [false, false, false, false]) := by decide
theorem test_bics : alu 0xE1D02001 0b0011 0xF 0xF = (some [0], some [false, true, true, true]) := by decide
theorem test_mvn : alu 0xE1E02001 0b0000 0 0x0000FFFF = (some [0xFFFF0000], some [false, false, false, false]) := by decide
theorem test_mvns : alu 0xE1F02001 0b0001 0 0x0000FFFF = (some [0xFFFF0000], some [true, false, false, true]) := by decide

theorem test_mul : regs [0] (run 0xE0000291 (start 0b1111 [(1, 3), (2, 4)])) = some [12]
    ∧ nzcv (run 0xE0000291 (start 0b1111 [(1, 3), (2, 4)])) = some [true, true, true, true] := by decide
theorem test_muls : regs [0] (run 0xE0100291 (start 0b1001 [(1, 0x10000), (2, 0x10000)])) = some [0]
    ∧ nzv (run 0xE0100291 (start 0b1001 [(1, 0x10000), (2, 0x10000)])) = some [false, true, true] := by decide
theorem test_mla : regs [0] (run 0xE0203291 (start 0 [(1, 3), (2, 4), (3, 0xFFFFFFF4)])) = some [0] := by decide
theorem test_mlas : regs [0] (run 0xE0303291 (start 0 [(1, 0x40000000), (2, 2)])) = some [0x80000000]
    ∧ nzv (run 0xE0303291 (start 0 [(1, 0x40000000), (2, 2)])) = some [true, false, false] := by decide
theorem test_umull : regs [0, 1] (run 0xE0810392 (start 0 [(2, 0xFFFFFFFF), (3, 0xFFFFFFFF)])) = some [1, 0xFFFFFFFE] := by
  decide
theorem test_umulls : regs [0, 1] (run 0xE0910392 (start 0b1000 [(3, 5)])) = some [0, 0]
    ∧ (nzv (run 0xE0910392 (start 0b1000 [(3, 5)]))).map (fun l => l.take 2) = some [false, true] := by decide
theorem test_umlal : regs [0, 1] (run 0xE0A10392 (start 0 [(0, 0xFFFFFFFF), (2, 1), (3, 1)])) = some [0, 1] := by decide
theorem test_umlals :
    regs [0, 1] (run 0xE0B10392 (start 0 [(0, 0xFFFFFFFF), (1, 0xFFFFFFFF), (2, 0xFFFFFFFF), (3, 0xFFFFFFFF)]))
      = some [0, 0xFFFFFFFE] := by decide
theorem test_smull : regs [0, 1] (run 0xE0C10392 (start 0 [(2, 0xFFFFFFFF), (3, 2)])) = some [0xFFFFFFFE, 0xFFFFFFFF] := by
  decide
theorem test_smulls : regs [0, 1] (run 0xE0D10392 (start 0 [(2, 0xFFFFFFFE), (3, 3)])) = some [0xFFFFFFFA, 0xFFFFFFFF]
    ∧ (nzv (run 0xE0D10392 (start 0 [(2, 0xFFFFFFFE), (3, 3)]))).map (fun l => l.take 2) = some [true, false] := by decide
theorem test_smlal : regs [0, 1] (run 0xE0E10392 (start 0 [(0, 1), (2, 0xFFFFFFFF), (3, 1)])) = some [0, 0] := by decide
theorem test_smlals : regs [0, 1] (run 0xE0F10392 (start 0 [(0, 1), (2, 0xFFFFFFFF), (3, 1)])) = some [0, 0]
    ∧ (nzv (run 0xE0F10392 (start 0 [(0, 1), (2, 0xFFFFFFFF), (3, 1)]))).map (fun l => l.take 2) = some [false, true] := by
  decide

theorem test_strh : words [0x02000000] (run 0xE1C100B2 (start 0 [(0, 0x12345678), (1, 0x02000000)])) = some [0x56780000] := by
  decide
theorem test_ldrh : regs [0, 1] (run 0xE05100B2 (withWords (start 0 [(1, 0x02000000)]) [(0x02000000, 0xFFFF1234)]))
    = some [0x1234, 0x01FFFFFE] := by decide
theorem test_ldrh_odd :
    regs [0] (run 0xE1D100B0 (withWords (start 0 [(1, 0x02000001)]) [(0x02000000, 0xFFFF1234)])) = some [0x34000012]
    ∧ halt (run 0xE1D100B0 (strict (start 0 [(1, 0x02000001)]))) = some (.misalignedAccess 0x02000001 .half 0x08000000) := by
  decide
theorem test_ldrsb : regs [0] (run 0xE19100D2 (withWords (start 0 [(1, 0x02000000), (2, 0x10)]) [(0x02000010, 0x7FF0)]))
    = some [0xFFFFFFF0] := by decide
theorem test_ldrsh : regs [0, 1] (run 0xE17100F4 (withWords (start 0 [(1, 0x02000004)]) [(0x02000000, 0x8000)]))
    = some [0xFFFF8000, 0x02000000] := by decide
theorem test_ldrd :
    regs [2, 3] (run 0xE1C120D8
      (withWords (start 0 [(1, 0x02000000)]) [(0x02000008, 0x11111111), (0x0200000C, 0x22222222)]))
    = some [0x11111111, 0x22222222] := by decide
theorem test_strd :
    words [0x02000000, 0x02000004] (run 0xE0C120F8 (start 0 [(1, 0x02000000), (2, 0xAAAAAAAA), (3, 0xBBBBBBBB)]))
      = some [0xAAAAAAAA, 0xBBBBBBBB]
    ∧ regs [1] (run 0xE0C120F8 (start 0 [(1, 0x02000000), (2, 0xAAAAAAAA), (3, 0xBBBBBBBB)])) = some [0x02000008] := by decide

theorem test_ldr : regs [0] (run 0xE7910102 (withWords (start 0 [(1, 0x02000000), (2, 1)]) [(0x02000004, 0x11223344)]))
    = some [0x11223344] := by decide
theorem test_ldr_odd : regs [0] (run 0xE5910000 (withWords (start 0 [(1, 0x02000001)]) [(0x02000000, 0x11223344)]))
    = some [0x44112233] := by decide
theorem test_str : words [0x03007FFC] (run 0xE5210004 (start 0 [(0, 0x01020304), (1, 0x03008000)])) = some [0x01020304]
    ∧ regs [1] (run 0xE5210004 (start 0 [(0, 0x01020304), (1, 0x03008000)])) = some [0x03007FFC] := by decide
theorem test_str_pc : words [0x02000000] (run 0xE581F000 (start 0 [(1, 0x02000000)])) = some [0x08000008] := by decide
theorem test_ldrb : regs [0, 1] (run 0xE4D10001 (withWords (start 0 [(1, 0x02000000)]) [(0x02000000, 0x12FF)]))
    = some [0xFF, 0x02000001] := by decide
theorem test_strb : words [0x02000000] (run 0xE4C10001 (start 0 [(0, 0x123456AB), (1, 0x02000000)])) = some [0xAB] := by decide
theorem test_ldrt : regs [0, 1] (run 0xE4B10004 (withWords (start 0 [(1, 0x02000000)]) [(0x02000000, 0xCAFEF00D)]))
    = some [0xCAFEF00D, 0x02000004] := by decide
theorem test_strt : words [0x02000000] (run 0xE4A10004 (start 0 [(0, 0xCAFEF00D), (1, 0x02000000)])) = some [0xCAFEF00D]
    ∧ regs [1] (run 0xE4A10004 (start 0 [(0, 0xCAFEF00D), (1, 0x02000000)])) = some [0x02000004] := by decide
theorem test_ldrbt : regs [0, 1] (run 0xE4F10004 (withWords (start 0 [(1, 0x02000000)]) [(0x02000000, 0xCAFEF00D)]))
    = some [0x0D, 0x02000004] := by decide
theorem test_strbt : words [0x02000000] (run 0xE4E10004 (start 0 [(0, 0xCAFEF00D), (1, 0x02000000)])) = some [0x0D]
    ∧ regs [1] (run 0xE4E10004 (start 0 [(0, 0xCAFEF00D), (1, 0x02000000)])) = some [0x02000004] := by decide
theorem test_swp :
    let s := withWords (start 0 [(1, 5), (2, 0x02000000)]) [(0x02000000, 9)]
    regs [0] (run 0xE1020091 s) = some [9] ∧ words [0x02000000] (run 0xE1020091 s) = some [5] := by decide
theorem test_swpb :
    let s := withWords (start 0 [(1, 0x1FF), (2, 0x02000000)]) [(0x02000000, 0x80)]
    regs [0] (run 0xE1420091 s) = some [0x80] ∧ words [0x02000000] (run 0xE1420091 s) = some [0xFF] := by decide

theorem test_b : flow (run 0xEAFFFFFE (start 0 [])) = some (0x08000000, 3) := by decide
theorem test_b_skipped : flow (run 0x1AFFFFFC (start 0b0100 [])) = some (0x0800000C, 0) := by decide
theorem test_bl : flow (run 0xEB000000 (start 0 [])) = some (0x08000008, 3)
    ∧ regs [14] (run 0xEB000000 (start 0 [])) = some [0x08000004] := by decide
theorem test_bx : flow (run 0xE12FFF11 (start 0 [(1, 0x08000101)])) = some (0x08000100, 3)
    ∧ cpsr (run 0xE12FFF11 (start 0 [(1, 0x08000101)])) = some 0x3F
    ∧ cpsr (run 0xE12FFF11 (start 0 [(1, 0x08000100)])) = some 0x1F := by decide
theorem test_bx_misaligned :
    halt (run 0xE12FFF11 (strict (start 0 [(1, 0x08000102)]))) = some (.unpredictable .bxMisaligned 0x08000000) := by decide
theorem test_mrsCpsr : regs [0] (run 0xE10F0000 (start 0b1000 [])) = some [0x8000001F] := by decide
theorem test_mrsSpsr :
    regs [0] (run 0xE14F0000 { inMode 0xD3 (start 0 []) with spsr := { State.reset.spsr with svc := Psr.ofWord 0xA00000D0 } })
      = some [0xA00000D0]
    ∧ halt (run 0xE14F0000 (strict (start 0 []))) = some (.unpredictable .spsrAccessNoSPSR 0x08000000) := by decide
theorem test_msrCpsr : cpsr (run 0xE328F20F (start 0 [])) = some 0xF000001F := by decide
theorem test_msrCpsr_user : cpsr (run 0xE321F0DF (inMode 0x10 (start 0 []))) = some 0x10 := by decide
theorem test_msrSpsr : regs [0] (run 0xE14F0000
      (match run 0xE169F000 (inMode 0xD3 (start 0 [(0, 0x60FFFF1F)])) with | .next t => t | _ => State.reset))
    = some [0x6000001F] := by decide
theorem test_stm :
    let s := start 0 [(13, 0x03007F00), (4, 4), (14, 0x08000100)]
    words [0x03007EF8, 0x03007EFC] (run 0xE92D4010 s) = some [4, 0x08000100]
    ∧ regs [13] (run 0xE92D4010 s) = some [0x03007EF8] := by decide
theorem test_ldm :
    let s := withWords (start 0 [(13, 0x03007EF8)]) [(0x03007EF8, 4), (0x03007EFC, 0x08000100)]
    regs [4, 13] (run 0xE8BD8010 s) = some [4, 0x03007F00] ∧ flow (run 0xE8BD8010 s) = some (0x08000100, 3) := by decide
/-- R375, R433: `SWI 0x12` at 0x08000000, from System mode. -/
theorem test_swi : cpsr (run 0xEF000012 (start 0 [])) = some 0x93 ∧ flow (run 0xEF000012 (start 0 [])) = some (0x08, 3)
    ∧ regs [14] (run 0xEF000012 (start 0 [])) = some [0x08000004]
    ∧ halt (run 0xEF000012 (strict (start 0 []))) = some (.softwareInterrupt 0x12 0x08000000) := by decide
/-- R377, R433: program P5's word, at 0x08000000. -/
theorem test_undefined : cpsr (run 0xE7F000F0 (start 0 [])) = some 0x9B ∧ flow (run 0xE7F000F0 (start 0 [])) = some (0x04, 3)
    ∧ regs [14] (run 0xE7F000F0 (start 0 [])) = some [0x08000004]
    ∧ halt (run 0xE0400099 (strict (start 0 []))) = some (.undefinedInstruction 0xE0400099 0x08000000) := by decide

/-- R409, R410: a halt leaves the window shifted, counter 0, pc and the registers as they were. -/
theorem test_halted_state :
    let s := { strict (start 0 [(0, 7)]) with decodeSlot := 0xEF000012, fetchSlot := 0xE1A00000 }
    stepReport s = some ⟨.executed, .halts (.softwareInterrupt 0x12 0x08000000),
      { s with executeSlot := 0xEF000012, decodeSlot := 0xE1A00000, fetchSlot := 0 }⟩ := by decide
/-- R436: an IRQ in the flushing state, and with no entry function. -/
theorem test_irq :
    let s := { start 0b1000 [] with pc := 0x08000104, counter := 1 }
    cpsr (deliverInterrupt .irq s) = some 0x80000092 ∧ flow (deliverInterrupt .irq s) = some (0x18, 3)
    ∧ regs [14] (deliverInterrupt .irq s) = some [0x08000104]
    ∧ halt (deliverInterrupt .fiq (strict s)) = some (.interrupt .fiq 0x08000100) := by decide

/-- R461: the two steps after reset run no handler, whatever the words are. -/
theorem test_first_steps :
    flow (step (withWords State.reset [(0, 0xE7F000F0), (4, 0xE7F000F0)])) = some (4, 1)
    ∧ flow (match step (withWords State.reset [(0, 0xE7F000F0), (4, 0xE7F000F0)]) with | .next t => step t | o => o)
      = some (8, 0) := by decide

/-- R60, R340, R371, R401: what a memory that is not the default is asked, the latest first: the fetch, then the read and the write of
`SWP r0, r1, [r2]`, or the reads of `LDMIA r2, {r0, r1}`; the default memory stays as it is. -/
theorem test_other_memory :
    let s := otherMemory (start 0 [(1, 0x11), (2, 0x02000000)])
    ((match step { s with decodeSlot := 0xE1020091 } with | .next t => some (t.bus, t.mem) | _ => none)
      = some ([.write .word 0x02000000 0x11, .read .word 0x02000000, .read .word 0x08000008], []))
    ∧ ((match step { s with decodeSlot := 0xE8920003 } with | .next t => some t.bus | _ => none)
      = some [.read .word 0x02000004, .read .word 0x02000000, .read .word 0x08000008]) := by decide

/-! ### Witnesses: states and operands that meet the hypotheses of the obligations -/

/-- The answer of a step, where it is one. -/
def after (s : State) : State :=
  match step s with
  | .next t => t
  | _ => s

/-- An instruction on a state. -/
def done (i : Instr) (s : State) : State :=
  match exec i s with
  | .next t => t
  | _ => s

/-- User mode, with the word to execute. -/
def user (w : Word) : State := { inMode 0x10 (start 0 []) with decodeSlot := w }

/-- A register-shift operand that names no r15. -/
def opReg : ShifterOperand := .shiftReg .ror 3 2

theorem witness_DecodeOfEncodeIsTheInstruction :
    (Instr.undefined .al 0x0400090).wellFormed = true ∧ (Instr.undefined .nv 0xEFFFFFF).wellFormed = true
    ∧ (Instr.ldrh .eq 15 ⟨.postW, false, 15, .imm 0xFF⟩).wellFormed = true := by decide

theorem witness_IgnoredBitsDoNotChangeDecoding :
    let i : Instr := .bx .al 3
    i.wellFormed = true
    ∧ ∀ k : Nat, (ignoredBits i).getLsbD k = false → (0xE1200013 : Word).getLsbD k = (encode i).getLsbD k := by
  refine ⟨rfl, fun k h => ?_⟩
  have below : ∀ k : Fin 32, (ignoredBits (.bx .al 3)).getLsbD k.val = false →
      (0xE1200013 : Word).getLsbD k.val = (encode (.bx .al 3)).getLsbD k.val := by decide
  by_cases hk : k < 32
  · exact below ⟨k, hk⟩ h
  · rw [BitVec.getLsbD_of_ge _ _ (by omega), BitVec.getLsbD_of_ge _ _ (by omega)]

theorem witness_UndefinedCellsAreListed : decodeWord 0xE0412093 = .undefined .al 0x0412093 := by decide

theorem witness_StepRunsTheDecodedInstruction :
    let s := { start 0b0100 [] with decodeSlot := 0x00812003 }
    s.thumb = false ∧ s.counter = 0 ∧ decodeWord s.decodeSlot = .add .eq 1 2 (.shiftImm .lsl 0 3)
    ∧ condPass .eq s.cpsr.n s.cpsr.z s.cpsr.c s.cpsr.v = true := by decide

theorem witness_FailingConditionOnlyAdvances :
    let s := { start 0b0100 [] with decodeSlot := 0x10812003 }
    s.thumb = false ∧ s.counter = 0
    ∧ condPass (decodeWord s.decodeSlot).cond s.cpsr.n s.cpsr.z s.cpsr.c s.cpsr.v = false := by decide

theorem witness_FlushingStepHalvesTheCounter :
    State.reset.thumb = false ∧ State.reset.counter ≠ 0 ∧ (after State.reset).thumb = false ∧ (after State.reset).counter ≠ 0 := by
  decide

theorem witness_TargetRunsAfterTwoFlushes :
    let s := withWords { start 0 [] with counter := 3, pc := 0xFFFFFFFC } [(0xFFFFFFFC, 0xE0812003)]
    s.thumb = false ∧ s.counter = 3
    ∧ decode (wordBytes (s.load32 s.pc)) = .ok (.add .al 1 2 (.shiftImm .lsl 0 3), []) ∧ s.params.mem = .flat
    ∧ condPass .al s.cpsr.n s.cpsr.z s.cpsr.c s.cpsr.v = true := by decide

theorem witness_EveryStepShiftsTheWindow :
    step State.reset = .next (after State.reset) ∧ step (after State.reset) = .next (after (after State.reset)) := by
  exact ⟨rfl, rfl⟩

theorem witness_CounterTransitions :
    let s := { start 0 [] with decodeSlot := 0xEA000000 }
    (step State.reset = .next (after State.reset) ∧ State.reset.counter = 3)
    ∧ (step (after State.reset) = .next (after (after State.reset)) ∧ (after State.reset).counter = 1)
    ∧ (step s = .next (after s) ∧ s.counter = 0) := by
  exact ⟨⟨rfl, rfl⟩, ⟨rfl, rfl⟩, ⟨rfl, rfl⟩⟩

theorem witness_StepKeepsTheInvariant : State.reset.Inv ∧ step State.reset = .next (after State.reset) :=
  ⟨⟨by decide, by decide, by decide⟩, rfl⟩

theorem witness_ResetHasTheInvariant : (Memory.wf [(0, 1), (0xFFFFFFFF, 0xFF)]) ∧ launch.mem.wf := by decide

theorem witness_EveryInstructionCompletes : 
    (State.reset.total ∧ State.reset.thumb = false) ∧ ((foreign State.reset).total ∧ (foreign State.reset).thumb = false) :=
  ⟨⟨⟨rfl, rfl, by decide, by decide⟩, rfl⟩, ⟨⟨rfl, rfl, by decide, by decide⟩, rfl⟩⟩

theorem witness_HaltsAreAskedForByParameters :
    let s := strict (start 0 [(1, 0x02000001)])
    exec (.mul .al 0 0 1) s = .fault (.unpredictable .mulOperands 0x08000000)
    ∧ exec (.ldr .al 0 ⟨.offset, true, 1, .imm 0⟩) s = .fault (.misalignedAccess 0x02000001 .word 0x08000000)
    ∧ exec (.undefined .al 0x7F000F0) s = .fault (.undefinedInstruction 0xE7F000F0 0x08000000)
    ∧ exec (.swi .al 0x12) s = .fault (.softwareInterrupt 0x12 0x08000000)
    ∧ step { s with decodeSlot := 0xEF000012 } = .fault (.softwareInterrupt 0x12 0x08000000) := ⟨rfl, rfl, rfl, rfl, rfl⟩

theorem witness_RegisterFrame :
    let s := start 0 [(1, 0x02000000)]
    let i : Instr := .ldr .al 0 ⟨.pre, true, 1, .imm 4⟩
    exec i s = .next (done i s) ∧ RegCell.usr 2 ∉ writtenCells i s ∧ RegCell.svc 1 ∉ writtenCells i s := by
  exact ⟨rfl, by decide, by decide⟩

theorem witness_MemoryFrame :
    let s := start 0 [(1, 0xFFFFFFFC)]
    let i : Instr := .strd .al 2 ⟨.offset, true, 1, .imm 0⟩
    exec i s = .next (done i s) ∧ (0xFFFFFFFB : Word) ∉ storedBytes i s ∧ (4 : Word) ∉ storedBytes i s := by
  exact ⟨rfl, by decide, by decide⟩

theorem witness_FlagFrame :
    let i : Instr := .msrCpsr .al 7 (.imm 0 0x10)
    exec i (start 0b1010 []) = .next (done i (start 0b1010 [])) ∧ writesFlags i (start 0b1010 []) = false
    ∧ exec (.swi .al 0) (start 0 []) = .next (done (.swi .al 0) (start 0 [])) ∧ writesFlags (.swi .al 0) (start 0 []) = false :=
  ⟨rfl, rfl, rfl, rfl⟩

theorem witness_StatusFrame :
    let i : Instr := .adds .al 1 2 (.imm 0 1)
    exec i (start 0 []) = .next (done i (start 0 [])) ∧ writesStatus i = false ∧ writesSpsr i = false
    ∧ (start 0 []).params.mem = .flat := ⟨rfl, rfl, rfl, rfl⟩

theorem witness_UserModeIsLeftByTrapsOnly :
    ((user 0xE1B0F00E).cpsr.modeCode = 0x10 ∧ step (user 0xE1B0F00E) = .next (after (user 0xE1B0F00E)))
    ∧ ((user 0xEF000012).cpsr.modeCode = 0x10 ∧ step (user 0xEF000012) = .next (after (user 0xEF000012)))
    ∧ ((user 0xE7F000F0).cpsr.modeCode = 0x10 ∧ step (user 0xE7F000F0) = .next (after (user 0xE7F000F0)))
    ∧ (user 0).params.ctx = .reference ∧ (user 0).params.swiEntry = .reference ∧ (user 0).params.undefEntry = .reference := by
  exact ⟨⟨by decide, rfl⟩, ⟨by decide, rfl⟩, ⟨by decide, rfl⟩, rfl, rfl, rfl⟩

theorem witness_RegisterReadsAsWritten : (14 : Reg) ≠ Reg.pc ∧ (15 : Reg) ≠ 14 ∧ (0 : Reg) ≠ 15 := by decide

theorem witness_ModesAndBanks :
    (7 : Fin 15).val < 8 ∧ (12 : Fin 15).val < 13 ∧ (start 0 []).params.ctx = .reference ∧ (14 : Reg).val < 15 := by decide

theorem witness_MemoryIsLittleEndian :
    Memory.wf [(0, 1), (0xFFFFFFFF, 0xFF)] ∧ (3 : Word) ≠ 0xFFFFFFFF ∧ (3 : Word) ≠ 0xFFFFFFFF + 1 ∧ (3 : Word) ≠ 0xFFFFFFFF + 2
    ∧ (2 : Word) ≠ 0xFFFFFFFF + 2
    ∧ (start 0 []).params.mem = .flat ∧ (otherMemory (start 0 [])).params.mem = .given := by decide

/-- `LDMIB`, `STMDA` and the two others, on the empty list and on the whole list. -/
theorem witness_BlockAddresses :
    (Mode4.mk false true false false 0 0).before = false ∧ (Mode4.mk false true false false 0 0).up = true
    ∧ (Mode4.mk true true false false 0 0xFFFF).before = true ∧ (Mode4.mk true true false false 0 0xFFFF).up = true
    ∧ (Mode4.mk false false false false 0 1).before = false ∧ (Mode4.mk false false false false 0 1).up = false
    ∧ (Mode4.mk true false false false 0 0x8000).before = true ∧ (Mode4.mk true false false false 0 0x8000).up = false := by
  decide

theorem witness_ImmediateShifts : (31 : Nat) < 32 ∧ (31 : BitVec 5).toNat ≠ 0 ∧ (0 : BitVec 5).toNat = 0 := by decide

/-- Amounts of 1, 32, 33 and 255. -/
theorem witness_RegisterShifts :
    (31 : Nat) < 32 ∧ (1 ≤ 1 ∧ 1 ≤ 255) ∧ (1 ≤ 32 ∧ 32 ≤ 255) ∧ (1 ≤ 33 ∧ 33 ≤ 255) ∧ (1 ≤ 255 ∧ 255 ≤ 255) := by decide

theorem witness_DataProcessingResults :
    (start 0 []).params.unpred = .compute
    ∧ ((strict (start 0 [])).params.unpred = .fault ∧ avoidsPc [0, 1] opReg ∧ avoidsPc [15, 15] (.imm 15 0xFF)) := by
  refine ⟨rfl, rfl, ?_, trivial⟩
  simp [avoidsPc, opReg]; decide

theorem witness_LogicalFlags :
    (0 : Reg) ≠ Reg.pc ∧ (14 : Reg) ≠ Reg.pc ∧ (start 0 []).params.unpred = .compute ∧ avoidsPc [15, 14] (.shiftImm .ror 0 15) :=
  ⟨by decide, by decide, rfl, trivial⟩

theorem witness_ArithmeticFlags :
    (0 : Reg) ≠ Reg.pc ∧ (start 0 []).params.unpred = .compute ∧ avoidsPc [14, 0] opReg := by
  refine ⟨by decide, rfl, ?_⟩
  simp [avoidsPc, opReg]; decide

theorem witness_CompareFlags : (start 0 []).params.unpred = .compute ∧ avoidsPc [14] opReg := by
  refine ⟨rfl, ?_⟩
  simp [avoidsPc, opReg]; decide

/-- One state for each clause: an SPSR with T = 0 and with T = 1, and System mode under each policy. -/
theorem witness_DataProcessingReturn :
    let svc := inMode 0xD3 (start 0 [])
    let thumb : State := { svc with spsr := { svc.spsr with svc := Psr.ofWord 0x30 } }
    (svc.params.unpred = .compute ∧ svc.exc? = some .svc ∧ (svc.spsr.get .svc).t = false)
    ∧ (thumb.exc? = some .svc ∧ (thumb.spsr.get .svc).t = true)
    ∧ ((start 0 []).exc? = none ∧ (start 0 []).params.unpred = .compute)
    ∧ ((strict (start 0 [])).exc? = none ∧ (strict (start 0 [])).params.unpred = .fault ∧ avoidsPc [14, Reg.pc] (.imm 0 4)) := by
  exact ⟨⟨rfl, rfl, rfl⟩, ⟨rfl, rfl⟩, ⟨rfl, rfl⟩, ⟨rfl, rfl, trivial⟩⟩

theorem witness_RegisterShiftWithPcHalts :
    (strict (start 0 [])).params.unpred = .fault ∧ (15 : Reg) = Reg.pc ∧ (14 : Reg) ≠ Reg.pc
    ∧ Reg.pc ∈ (2 : Reg) :: [0, 15] ∧ Reg.pc ∈ (15 : Reg) :: [0] := by decide

theorem witness_MultiplyResults :
    (start 0 []).params.unpred = .compute
    ∧ ((strict (start 0 [])).params.unpred = .fault ∧ (Reg.pc ∉ ([0, 14, 0, 0] : List Reg) ∧ (0 : Reg) ≠ 14)) := by decide

theorem witness_MultiplyFlags :
    (start 0 []).params.unpred = .compute ∧ (Reg.pc ∉ ([14, 1, 14, 14] : List Reg) ∧ (14 : Reg) ≠ 1) := by decide

theorem witness_LongMultiplyResults :
    (start 0 []).params.unpred = .compute
    ∧ (Reg.pc ∉ ([1, 0, 14, 0] : List Reg) ∧ (1 : Reg) ≠ 0 ∧ (1 : Reg) ≠ 14 ∧ (0 : Reg) ≠ 14) := by decide

theorem witness_LongMultiplyFlags :
    (start 0 []).params.unpred = .compute
    ∧ (Reg.pc ∉ ([1, 0, 14, 1] : List Reg) ∧ (1 : Reg) ≠ 0 ∧ (1 : Reg) ≠ 14 ∧ (0 : Reg) ≠ 14) := by decide

/-- A choice that halts and one that does not, for each list of operands. -/
theorem witness_MultiplyAndSwapUnpredictable :
    (strict (start 0 [])).params.unpred = .fault
    ∧ exec (.mul .al 0 0 1) (strict (start 0 [])) = .fault (.unpredictable .mulOperands 0x08000000)
    ∧ (Reg.pc ∈ ([0, 1, 15] : List Reg) ∧ ¬(Reg.pc ∈ ([0, 1, 0] : List Reg) ∨ (0 : Reg) = 1))
    ∧ exec (.mla .al 0 1 2 15) (strict (start 0 [])) = .fault (.unpredictable .mulOperands 0x08000000)
    ∧ exec (.smlal .al 1 1 2 3) (strict (start 0 [])) = .fault (.unpredictable .mulOperands 0x08000000)
    ∧ exec (.swp .al 15 0 0) (strict (start 0 [])) = .fault (.unpredictable .swapPC 0x08000000)
    ∧ exec (.swpb .al 0 1 0) (strict (start 0 [])) = .fault (.unpredictable .swapBase 0x08000000) := by
  refine ⟨by decide, rfl, by decide, rfl, rfl, rfl, rfl⟩

/-- A word at an address that is aligned, and one at an address that is not; the T form; a form that is regular under Fault. -/
theorem witness_SingleLoads :
    let a : Mode2 := ⟨.post, false, 1, .imm 0xFFF⟩
    ((start 0 [(1, 0x02000003)]).params.unpred = .compute ∧ (start 0 [(1, 0x02000003)]).params.misalign = .arm7tdmi)
    ∧ a.ix = .post
    ∧ (regular2 false 15 a ∧ regular2 true 14 a ∧ (((resolveMode2 a (strict (start 0 []))).addr.extractLsb' 0 2).toNat = 0)) := by
  refine ⟨⟨rfl, rfl⟩, rfl, ?_, ?_, by decide⟩ <;> simp [regular2] <;> decide

theorem witness_SingleStores :
    let a : Mode2 := ⟨.post, true, 1, .reg .ror 0 14⟩
    ((start 0 [(1, 0x02000003)]).params.unpred = .compute ∧ (start 0 [(1, 0x02000003)]).params.misalign = .arm7tdmi)
    ∧ a.ix = .post
    ∧ (regular2 false 15 a ∧ regular2 true 0 a ∧ (((resolveMode2 a (strict (start 0 []))).addr.extractLsb' 0 2).toNat = 0)) := by
  refine ⟨⟨rfl, rfl⟩, rfl, ?_, ?_, by decide⟩ <;> simp [regular2] <;> decide

/-- One operand choice for each clause, in its order; a T form is post-indexed. -/
theorem witness_SingleTransferUnpredictable :
    let a1 : Mode2 := ⟨.pre, true, 15, .reg .lsl 0 15⟩
    let a2 : Mode2 := ⟨.post, true, 0, .reg .lsl 0 15⟩
    let a3 : Mode2 := ⟨.post, true, 0, .imm 0⟩
    let a4 : Mode2 := ⟨.offset, true, 15, .imm 0⟩
    (strict (start 0 [])).params.unpred = .fault
    ∧ (a1.ix ≠ .offset ∧ a1.n = Reg.pc) ∧ (a2.n ≠ Reg.pc ∧ a2.off = .reg .lsl 0 Reg.pc)
    ∧ (a3.n ≠ Reg.pc ∧ a3.off = .imm 0 ∧ a3.ix = .post ∧ a3.n = 0)
    ∧ (¬(a4.ix ≠ .offset) ∧ a4.off = .imm 0 ∧ (15 : Reg) = Reg.pc) := by decide

/-- Aligned and odd addresses under the launch parameters, and a regular form at an aligned address under Fault. -/
theorem witness_HalfwordAndSignedTransfers :
    let a : Mode3 := ⟨.post, false, 1, .reg 14⟩
    let odd := start 0 [(1, 0x02000001)]
    (odd.params.unpred = .compute ∧ (resolveMode3 a odd).addr.getLsbD 0 = true ∧ odd.params.misalign = .arm7tdmi)
    ∧ (regular3 0 a ∧ (resolveMode3 a (strict (start 0 []))).addr.getLsbD 0 = false) := by
  refine ⟨⟨rfl, by decide, rfl⟩, ?_, by decide⟩
  simp [regular3]; decide

/-- d = 12 is the last even register whose pair is regular; under Compute, d = 15 and d = 14 are covered too. STRD may write back to
d + 1. -/
theorem witness_DoublewordTransfers :
    let a : Mode3 := ⟨.pre, true, 1, .imm 8⟩
    ((start 0 []).params.unpred = .compute ∧ (start 0 []).params.misalign = .arm7tdmi)
    ∧ (regularPair true 12 a ∧ (resolveMode3 a (strict (start 0 []))).addr.extractLsb' 0 2 = 0)
    ∧ (regularPair false 0 a ∧ a.ix ≠ .offset ∧ a.n = 0 + 1) := by
  refine ⟨⟨rfl, rfl⟩, ⟨?_, by decide⟩, ?_, by decide, by decide⟩ <;> simp [regularPair, regular3] <;> decide

/-- One operand choice for each clause, in its order: a base of 15, a PTW form, an offset of 15, a base that is d or (LDRD) d + 1, a
d of 15, and an odd d and a d of 14. -/
theorem witness_ExtendedTransferUnpredictable :
    let a1 : Mode3 := ⟨.postW, true, 15, .reg 15⟩
    let a2 : Mode3 := ⟨.postW, true, 0, .reg 15⟩
    let a3 : Mode3 := ⟨.pre, true, 0, .reg 15⟩
    let a4 : Mode3 := ⟨.pre, true, 3, .imm 0⟩
    let a5 : Mode3 := ⟨.offset, true, 15, .imm 0⟩
    (strict (start 0 [])).params.unpred = .fault
    ∧ (a1.ix ≠ .offset ∧ a1.n = Reg.pc) ∧ (a2.n ≠ Reg.pc ∧ a2.ix = .postW)
    ∧ (a3.n ≠ Reg.pc ∧ a3.ix ≠ .postW ∧ a3.off = .reg Reg.pc)
    ∧ (a4.n ≠ Reg.pc ∧ a4.ix ≠ .postW ∧ a4.off ≠ .reg Reg.pc ∧ a4.ix ≠ .offset ∧ (a4.n = 2 + 1 ∨ a4.n = 2))
    ∧ (¬(a5.ix ≠ .offset) ∧ a5.off ≠ .reg Reg.pc ∧ (15 : Reg) = Reg.pc)
    ∧ ((14 : Reg) ≠ Reg.pc ∧ ((13 : Reg).val % 2 = 1 ∧ (14 : Reg) = Reg.lr)) := by decide

/-- Addresses of 3 (a word), of 1 (a halfword) and of 2 (a doubleword), under Compute and misalign = Fault. -/
theorem witness_MisalignedTransfersHalt :
    let s : State := { start 0 [(1, 3), (2, 1), (3, 2)] with params := { launchParams with misalign := .fault } }
    s.params.unpred = .compute ∧ s.params.misalign = .fault
    ∧ (resolveMode2 ⟨.post, true, 1, .imm 0⟩ s).addr.extractLsb' 0 2 ≠ 0
    ∧ (resolveMode3 ⟨.offset, true, 2, .imm 0⟩ s).addr.getLsbD 0 = true
    ∧ (resolveMode3 ⟨.offset, true, 3, .imm 0⟩ s).addr.extractLsb' 0 2 ≠ 0
    ∧ (s.reg 3).extractLsb' 0 2 ≠ 0 ∧ (blockStart ⟨false, true, false, false, 3, 1⟩ (s.reg 3)).extractLsb' 0 2 ≠ 0 := by decide

/-- The same addresses under R9's defaults, in forms that are regular. -/
theorem witness_MisalignedTransfersHalt_regular :
    let s : State := strict (start 0 [(1, 3), (2, 1), (3, 2)])
    s.params.misalign = .fault ∧ s.params.unpred = .fault
    ∧ ((resolveMode2 ⟨.post, true, 1, .imm 0⟩ s).addr.extractLsb' 0 2 ≠ 0 ∧ regular2 false 0 ⟨.post, true, 1, .imm 0⟩)
    ∧ ((resolveMode3 ⟨.offset, true, 2, .imm 0⟩ s).addr.getLsbD 0 = true ∧ regular3 0 ⟨.offset, true, 2, .imm 0⟩)
    ∧ ((resolveMode3 ⟨.pre, true, 3, .imm 0⟩ s).addr.extractLsb' 0 2 ≠ 0 ∧ regularPair true 0 ⟨.pre, true, 3, .imm 0⟩
      ∧ regularPair false 2 ⟨.pre, true, 3, .imm 0⟩)
    ∧ ((s.reg 3).extractLsb' 0 2 ≠ 0 ∧ regularSwap 0 1 3)
    ∧ ((blockStart ⟨false, true, false, false, 3, 1⟩ (s.reg 3)).extractLsb' 0 2 ≠ 0
      ∧ regularLdm ⟨false, true, false, false, 3, 1⟩ s ∧ regularStm ⟨false, true, false, false, 3, 1⟩) := by
  refine ⟨rfl, rfl, ⟨by decide, ?_⟩, ⟨by decide, ?_⟩, ⟨by decide, ?_, ?_⟩, ⟨by decide, ?_⟩, ⟨by decide, ?_, ?_⟩⟩
  · simp [regular2]; decide
  · simp [regular3]; decide
  · simp [regularPair, regular3]; decide
  · simp [regularPair, regular3]; decide
  · simp only [regularSwap]; decide
  · simp [regularLdm]; decide
  · simp [regularStm]; decide

theorem witness_Swaps :
    ((start 0 [(2, 3)]).params.unpred = .compute ∧ (start 0 [(2, 3)]).params.misalign = .arm7tdmi)
    ∧ (regularSwap 0 0 2 ∧ (((strict (start 0 [])).reg 2).extractLsb' 0 2).toNat = 0) := by
  refine ⟨by decide, ?_, by decide⟩
  simp only [regularSwap]; decide

/-- The empty list and a base that is stored after others under Compute; a base that is first in the list under Fault. -/
theorem witness_StoreMultiple :
    let s := start 0 [(3, 0x02000002)]
    let a : Mode4 := ⟨true, false, false, true, 3, 0x8008⟩
    (s.mem.wf ∧ s.params.unpred = .compute ∧ s.params.misalign = .arm7tdmi)
    ∧ ((strict s).mem.wf ∧ regularStm a ∧ a.list.getLsbD a.n.val = true
      ∧ (blockStart a ((strict (start 0 [])).reg 3)).extractLsb' 0 2 = 0)
    ∧ (Mode4.mk true false false true 3 0).list = 0
    ∧ (s.params.mem = .flat ∧ (otherMemory s).mem.wf ∧ (otherMemory s).params.unpred = .compute
      ∧ (otherMemory s).params.misalign = .arm7tdmi ∧ (otherMemory s).params.mem = .given) := by
  refine ⟨by decide, ⟨by decide, ?_, by decide, by decide⟩, by decide, by decide⟩
  simp only [regularStm]; decide

/-- The clauses: r15 in the list or an empty list, with S = 0, in a mode with an SPSR, and in one without; and no r15, with a base
of 15 that is written back, and with a base that is not in the list. -/
theorem witness_LoadMultiple :
    let s := start 0 [(3, 0x02000002)]
    let a : Mode4 := ⟨true, false, true, false, 3, 0x8001⟩
    let b : Mode4 := ⟨false, true, false, true, 3, 0x0001⟩
    (s.params.unpred = .compute ∧ s.params.misalign = .arm7tdmi ∧ s.exc? = none)
    ∧ ((inMode 0xD3 s).exc? = some .svc ∧ a.list.getLsbD 15 = true ∧ a.s = true)
    ∧ (regularLdm b (strict (start 0 [])) ∧ b.w = true ∧ b.list.getLsbD b.n.val = false ∧ b.list.getLsbD 15 = false
      ∧ b.n.val < 15 ∧ (blockStart b ((strict (start 0 [])).reg 3)).extractLsb' 0 2 = 0)
    ∧ ((Mode4.mk false true false true 15 1).n = Reg.pc ∧ (Mode4.mk false true false true 15 0).list = 0)
    ∧ (s.params.mem = .flat ∧ s.params.ctx = .reference ∧ (otherMemory s).params.unpred = .compute
      ∧ (otherMemory s).params.misalign = .arm7tdmi ∧ (otherMemory s).params.mem = .given) := by
  refine ⟨by decide, by decide, ⟨?_, by decide⟩, by decide, by decide⟩
  simp only [regularLdm]; decide

/-- One operand choice for each clause, in its order. -/
theorem witness_BlockTransferUnpredictable :
    (strict (start 0 [])).params.unpred = .fault
    ∧ (Mode4.mk false true true true 15 0).list = 0 ∧ (Mode4.mk false true true true 15 1).n = Reg.pc
    ∧ ((Mode4.mk false true true true 0 1).s = true ∧ (Mode4.mk false true true true 0 1).w = true)
    ∧ ((0x000C : BitVec 16).getLsbD (3 : Reg).val = true ∧ rank 0x000C (3 : Reg).val ≠ 0)
    ∧ (0x7FFF : BitVec 16).getLsbD 15 = false
    ∧ ((0x8000 : BitVec 16).getLsbD 15 = true ∧ (strict (start 0 [])).exc? = none)
    ∧ (0x0001 : BitVec 16).getLsbD (0 : Reg).val = true := by decide

theorem witness_Branches : (start 0 []).pc.extractLsb' 0 2 = 0 := by decide

/-- Targets with bit 0 set, with bits 1:0 clear, and with bit 1 set alone, the last under each policy. -/
theorem witness_BranchExchange :
    ((start 0 [(1, 0x08000101)]).reg 1).getLsbD 0 = true
    ∧ (((start 0 [(1, 0x08000100)]).reg 1).getLsbD 0 = false ∧ ((start 0 [(1, 0x08000100)]).reg 1).getLsbD 1 = false)
    ∧ (((start 0 [(1, 2)]).reg 1).getLsbD 1 = true ∧ (start 0 [(1, 2)]).params.unpred = .compute)
    ∧ (((strict (start 0 [(1, 2)])).reg 1).getLsbD 0 = false ∧ (strict (start 0 [(1, 2)])).params.unpred = .fault) := by decide

theorem witness_MoveFromStatus :
    (start 0 []).params.unpred = .compute ∧ (14 : Reg) ≠ Reg.pc ∧ (inMode 0xD3 (start 0 [])).exc? = some .svc
    ∧ (start 0 []).exc? = none ∧ (strict (start 0 [])).params.unpred = .fault ∧ (strict (start 0 [])).exc? = none
    ∧ (strict (inMode 0xD3 (start 0 []))).exc? ≠ none := by decide

theorem witness_MoveToStatus :
    (start 0 []).params.unpred = .compute
    ∧ ((resolvePsrOperand (.imm 0 0x10) (strict (start 0 []))).getLsbD 5 = (strict (start 0 [])).thumb)
    ∧ ((strict (start 0 [])).params.unpred = .fault ∧ (1 : BitVec 4).getLsbD 0 = true
      ∧ (resolvePsrOperand (.imm 0 0xFF) (strict (start 0 []))).getLsbD 5 ≠ (strict (start 0 [])).thumb)
    ∧ (inMode 0xD3 (start 0 [])).exc? = some .svc ∧ (start 0 []).exc? = none
    ∧ (strict (start 0 [])).exc? = none := by decide

theorem witness_TrapEntries :
    (start 0 []).params.swiEntry = .reference ∧ (start 0 []).params.undefEntry = .reference
    ∧ (strict (start 0 [])).params.swiEntry = .absent ∧ (strict (start 0 [])).params.undefEntry = .absent
    ∧ (start 0 []).params.ctx = .reference := by decide

theorem witness_InterruptEntries :
    (start 0 []).params.interruptEntry = .reference ∧ (strict (start 0 [])).params.interruptEntry = .absent
    ∧ (foreign (start 0 [])).params.interruptEntry = .given ∧ (foreign (start 0 [])).params.swiEntry = .given
    ∧ (foreign (start 0 [])).params.undefEntry = .given ∧ (start 0 []).params.ctx = .reference := by decide

theorem witness_TrapReturnRestoresTheCaller :
    ((start 0 []).thumb = false ∧ (start 0 []).params.ctx = .reference)
    ∧ ((start 0 []).params.swiEntry = .reference ∧ (start 0 []).params.undefEntry = .reference)
    ∧ exec (.swi .al 0x12) (start 0 []) = .next (done (.swi .al 0x12) (start 0 []))
    ∧ exec (.undefined .al 0x7F000F0) (start 0 []) = .next (done (.undefined .al 0x7F000F0) (start 0 [])) := ⟨⟨rfl, rfl⟩, ⟨rfl, rfl⟩, rfl, rfl⟩


end Sys2Proof.Tests
end

section
/-! What every instruction and every step can answer, and the statements of scope: O16 (every instruction completes), O31 (what the operands
read) and O59 (interrupt entries, and the entries given). -/

namespace Sys2Proof.Proofs

open Sys2Proof Sys2Proof.Machine Sys2Proof.Laws

/-! ### What an instruction can answer (R409, R430, R432) -/

/-- The answers of instruction `i` on `s`: a next state, or a halt that a parameter asks for, with the executing address. No refusal is
among them. -/
inductive Answers (i : Instr) (s : State) : Outcome → Prop
  | next (t : State) : Answers i s (.next t)
  | unpredictable (r : UnpredReason) (hp : s.params.unpred = .fault) : Answers i s (.fault (.unpredictable r (s.pc - 8)))
  | misaligned (a : Word) (n : Width) (hp : s.params.misalign = .fault) (ha : misaligned n a = true) :
      Answers i s (.fault (.misalignedAccess a n (s.pc - 8)))
  | noUndefEntry (c : Cond) (bits : BitVec 28) (hi : i = .undefined c bits) (hp : s.params.undefEntry = .absent) :
      Answers i s (.fault (.undefinedInstruction (c.bits ++ bits) (s.pc - 8)))
  | noSwiEntry (c : Cond) (comment : BitVec 24) (hi : i = .swi c comment) (hp : s.params.swiEntry = .absent) :
      Answers i s (.fault (.softwareInterrupt comment (s.pc - 8)))

section
variable {i : Instr} {s : State}

theorem Answers.guardUnpred {k : Outcome} (h : Answers i s k) (cs : List (UnpredReason × Bool)) :
    Answers i s (guardUnpred cs s k) := by
  rcases guardUnpred_cases cs s k with e | ⟨r, e, hp, -⟩ <;> rw [e]
  · exact h
  · exact .unpredictable r hp

theorem Answers.guardAligned {k : Outcome} (h : Answers i s k) (n : Width) (ea : Word) :
    Answers i s (guardAligned n ea s k) := by
  rcases guardAligned_cases n ea s k with e | ⟨e, hp, ha⟩ <;> rw [e]
  · exact h
  · exact .misaligned ea n hp ha

/-- A handler that makes its checks and then goes on. -/
theorem answers_checked (cs : List (UnpredReason × Bool)) (t : State) : Answers i s (guardUnpred cs s (.next t)) :=
  (Answers.next t).guardUnpred cs

/-- A handler that also checks the alignment of an address. -/
theorem answers_transfer (cs : List (UnpredReason × Bool)) (n : Width) (ea : Word) (t : State) :
    Answers i s (guardUnpred cs s (guardAligned n ea s (.next t))) :=
  ((Answers.next t).guardAligned n ea).guardUnpred cs

theorem answers_dpFlags (op : AluOp) (n : Option Reg) (d : Reg) (o : ShifterOperand) : Answers i s (dpFlags op n d o s) := by
  refine Answers.guardUnpred ?_ _
  split
  · exact .next _
  · exact .next _

end

theorem answers_bx (c : Cond) (m : Reg) (s : State) : Answers (.bx c m) s (execBx m s) := by
  unfold execBx
  dsimp only
  split
  · exact .next _
  · exact answers_checked _ _

theorem answers_mrsSpsr (c : Cond) (d : Reg) (s : State) : Answers (.mrsSpsr c d) s (execMrsSpsr d s) := by
  refine Answers.guardUnpred ?_ _
  split
  · exact .next _
  · exact .next _

theorem answers_swi (c : Cond) (comment : BitVec 24) (s : State) : Answers (.swi c comment) s (execSwi comment s) := by
  unfold execSwi
  split
  · exact .next _
  · exact .next _
  · exact .noSwiEntry c comment rfl ‹_›

theorem answers_undefined (c : Cond) (bits : BitVec 28) (s : State) : Answers (.undefined c bits) s (execUndefined c bits s) := by
  unfold execUndefined
  split
  · exact .next _
  · exact .next _
  · exact .noUndefEntry c bits rfl ‹_›

/-- Everything an instruction can answer. -/
theorem exec_answers (i : Instr) (s : State) : Answers i s (exec i s) := by
  cases i
  case swi c comment => exact answers_swi c comment s
  case undefined c bits => exact answers_undefined c bits s
  case bx c m => exact answers_bx c m s
  case mrsSpsr c d => exact answers_mrsSpsr c d s
  case b | bl => exact .next _
  case strh | ldrh | ldrsb | ldrsh | ldrd | strd => exact answers_transfer _ _ _ _
  case ldr | str | ldrb | strb | ldrt | strt | ldrbt | strbt => exact answers_transfer _ _ _ _
  case swp | stm | ldm => exact answers_transfer _ _ _ _
  case ands | eors | subs | rsbs | adds | adcs | sbcs | rscs | orrs | movs | bics | mvns => exact answers_dpFlags _ _ _ _
  case and | eor | sub | rsb | add | adc | sbc | rsc | orr | mov | bic | mvn => exact answers_checked _ _
  case tst | teq | cmp | cmn => exact answers_checked _ _
  case mul | muls | mla | mlas => exact answers_checked _ _
  case umull | umulls | umlal | umlals | smull | smulls | smlal | smlals => exact answers_checked _ _
  case swpb | mrsCpsr | msrCpsr | msrSpsr => exact answers_checked _ _

/-! ### Completion -/

theorem total_congr {s t : State} (hp : t.params = s.params) (h : s.total) : t.total := by
  unfold State.total at *
  rwa [hp]

/-- Each halt of `Answers` rests on a parameter value that `State.total` excludes. -/
theorem Answers.completes {i : Instr} {s : State} {o : Outcome} (h : Answers i s o) (ht : s.total) : ∃ t, o = .next t := by
  obtain ⟨hunpred, hmisalign, hundef, hswi⟩ := ht
  cases h with
  | next t => exact ⟨t, rfl⟩
  | unpredictable r hp => rw [hunpred] at hp; cases hp
  | misaligned a n hp => rw [hmisalign] at hp; cases hp
  | noUndefEntry c bits hi hp => exact absurd hp hundef
  | noSwiEntry c comment hi hp => exact absurd hp hswi

theorem exec_completes (i : Instr) {s : State} (h : s.total) : ∃ t, exec i s = .next t := (exec_answers i s).completes h

/-- The acting step around a handler that answers a next state. -/
theorem act_of_next {i : Instr} {s u : State} (h : exec i s = .next u) :
    act i s = .next (if s.passes i.cond then finish u else advance s) := by
  unfold act
  rw [h]
  split <;> rfl

/-- The step in ARM state (R400). -/
theorem step_arm {s : State} (h : s.thumb = false) :
    step s = if s.counter = 0 then act (decodeWord s.decodeSlot) (shift s) else .next (advance (tick (shift s))) := by
  unfold step stepState
  rw [h]
  rfl

theorem step_completes {s : State} (h : s.total) (ht : s.thumb = false) : ∃ t, step s = .next t := by
  obtain ⟨u, hu⟩ := exec_completes (decodeWord s.decodeSlot) (total_congr (shift_params s) h)
  rw [step_arm ht]
  split
  · exact ⟨_, act_of_next hu⟩
  · exact ⟨_, rfl⟩

/-- No step changes the parameters. -/
theorem step_params {s t : State} (h : step s = .next t) : t.params = s.params := by
  obtain ⟨-, ⟨-, e⟩ | ⟨-, -, e⟩ | ⟨-, -, u, hu, e⟩⟩ := step_next h <;> rw [e]
  · rfl
  · rfl
  · rw [finish_params, (exec_kept _ _ _ hu).p, shift_params]

/-- Settles O16: `exec_answers` lists the halts of every instruction, and each rests on a parameter value that `State.total` excludes. -/
theorem everyInstructionCompletes : Obligations.EveryInstructionCompletes := by
  intro s h
  refine ⟨fun i => ?_, fun ht => ?_⟩
  · obtain ⟨t, e⟩ := exec_completes i h
    exact ⟨t, e, (exec_kept i s t e).p⟩
  · obtain ⟨t, e⟩ := step_completes h ht
    exact ⟨t, e, total_congr (step_params e) h⟩

/-! ### What the operands read -/

/-- Settles O31: `State.shiftReg` is the read of a register-shift form, in which r15 alone differs from `State.reg`, and every other operand
reads through `State.reg`. -/
theorem operandsReadPc : Obligations.OperandsReadPc := by
  intro s n m rs t amt rot imm8 inShift
  have hshift : ∀ r, s.shiftReg r = inShift r := fun _ => rfl
  refine ⟨reg_pc s, rfl, rfl, ?_, rfl, rfl, hshift n, rfl, rfl, rfl, rfl⟩
  rw [← hshift, ← hshift]
  rfl

/-! ### Interrupts, and the entries given -/

/-- `NextAddr()` by the counter (R415). -/
theorem nextAddr_eq (s : State) :
    nextAddr s = if s.counter = 3 then s.pc else if s.counter = 0 then s.pc - 8 else s.pc - 4 := by
  have hcounter : ∀ c : BitVec 2, c = 0 ∨ c = 1 ∨ c = 2 ∨ c = 3 := by decide
  unfold nextAddr
  rcases hcounter s.counter with e | e | e | e <;> rw [e] <;> rfl

/-- A reference entry as one update: a vector is a multiple of 4, so the PC write leaves it as it is. -/
theorem takeException_eq (m : ExcMode) (link vector : Word) (b : Bool) (s : State) (hv : vector &&& 0xFFFFFFFC = vector) :
    takeException m link vector b s
      = { s with cpsr := s.cpsr.entry m b, spsr := s.savedSpsr m.code, regs := s.linked m.code link, pc := vector, counter := 3 } := by
  unfold takeException State.writePc
  rw [hv]

theorem deliverInterrupt_reference {s : State} (h : s.params.interruptEntry = .reference) (k : InterruptKind) :
    deliverInterrupt k s = .next (interruptEntry k (nextAddr s) s) := by
  unfold deliverInterrupt; rw [h]

theorem deliverInterrupt_given {s : State} (h : s.params.interruptEntry = .given) (k : InterruptKind) :
    deliverInterrupt k s = .next (s.enter (Config.interruptEntry s.context k (nextAddr s))) := by
  unfold deliverInterrupt; rw [h]

theorem deliverInterrupt_absent {s : State} (h : s.params.interruptEntry = .absent) (k : InterruptKind) :
    deliverInterrupt k s = .fault (.interrupt k (nextAddr s)) := by
  unfold deliverInterrupt; rw [h]

theorem exec_swi_given {s : State} (h : s.params.swiEntry = .given) (c : Cond) (comment : BitVec 24) :
    exec (.swi c comment) s = .next (s.enter (Config.swiEntry s.context comment s.execAddr)) := by
  show execSwi comment s = _
  unfold execSwi; rw [h]

theorem exec_undefined_given {s : State} (h : s.params.undefEntry = .given) (c : Cond) (bits : BitVec 28) :
    exec (.undefined c bits) s = .next (s.enter (Config.undefEntry s.context (c.bits ++ bits) s.execAddr)) := by
  show execUndefined c bits s = _
  unfold execUndefined; rw [h]

/-- Settles O59: the two reference entries are `takeException` at the next instruction's address, and an entry given is `State.enter`. -/
theorem interruptEntries : Obligations.InterruptEntries := by
  intro s addr entered saved linked ctx left
  have haddr : nextAddr s = addr := nextAddr_eq s
  have hentered : ∀ m b, entered (s.cpsr.entry m b) m.code (b || s.cpsr.f) := fun m b => by
    obtain ⟨hmode, ht, hi, hf, hrest⟩ := entry_fields s.cpsr m b
    exact ⟨hmode, ht, hi, hf, rfl, rfl, rfl, rfl, hrest⟩
  have hleft : ∀ e, s.enter e = left e := fun _ => rfl
  refine ⟨fun h => ⟨⟨_, hentered .irq false, ?_⟩, ⟨_, hentered .fiq true, ?_⟩⟩, fun h => ?_, fun k h => ?_, fun k h => ?_,
    fun c comment h => ?_, fun c bits h => ?_⟩
  · rw [deliverInterrupt_reference h, haddr]
    exact congrArg _ (takeException_eq .irq (addr + 4) 0x00000018 false s (by decide))
  · rw [deliverInterrupt_reference h, haddr]
    exact congrArg _ (takeException_eq .fiq (addr + 4) 0x0000001C true s (by decide))
  · exact ⟨savedSpsr_reference h .irq, linked_reference h 0x12 (addr + 4), savedSpsr_reference h .fiq,
      linked_reference h 0x11 (addr + 4)⟩
  · rw [deliverInterrupt_absent h, haddr]
  · rw [deliverInterrupt_given h, haddr, hleft]
    rfl
  · rw [exec_swi_given h, hleft]
    rfl
  · rw [exec_undefined_given h, hleft]
    rfl

end Sys2Proof.Proofs
end

section
/-! The state between steps: the invariant and the window (O13, O11, O14, O18), and a register read after a write (O24). -/

namespace Sys2Proof.Proofs

open Sys2Proof Sys2Proof.Machine Sys2Proof.Laws

/-! ### The invariant, and the window (R32, R43, R80) -/

theorem aligned_add_four {a : Word} (h : a.extractLsb' 0 2 = 0) : (a + 4).extractLsb' 0 2 = 0 := by
  have h4 : a.toNat % 4 = 0 := by simpa [BitVec.extractLsb'_toNat] using congrArg BitVec.toNat h
  apply BitVec.eq_of_toNat_eq
  simp only [BitVec.extractLsb'_toNat, BitVec.toNat_add, BitVec.reduceToNat, Nat.shiftRight_zero]
  omega

/-- In ARM state an aligned pc is a multiple of 4. -/
theorem pcAligned_arm {s : State} (h : s.pcAligned) (ht : s.thumb = false) : s.pc.extractLsb' 0 2 = 0 := by
  obtain h | ⟨ht', -⟩ := h
  · exact h
  · rw [ht] at ht'; cases ht'

/-- pc after the advance that follows a handler: written by the handler, or 4 above an aligned pc. -/
theorem finish_keeps {s u : State} (hk : Kept s u) (hc : s.counter = 0) (hpc : s.pc.extractLsb' 0 2 = 0) :
    (finish u).pcAligned ∧ (finish u).counter ≠ 2 := by
  rcases hk.pc with ⟨hupc, hucounter⟩ | ⟨hucounter, hualigned⟩
  · have hu0 : u.counter = 0 := hucounter.trans hc
    refine ⟨.inl ?_, ?_⟩
    · rw [finish_advanced hu0, hupc]
      exact aligned_add_four hpc
    · rw [finish_counter, hu0]
      decide
  · have hu3 : u.counter ≠ 0 := by rw [hucounter]; decide
    rw [finish_written hu3, hucounter]
    exact ⟨hualigned, by decide⟩

/-- Settles O13: a step runs in ARM state, so pc is a multiple of 4 before it; a flushing step and a skip add 4, and `exec_kept` says what
an instruction does to pc, the counter and memory. -/
theorem stepKeepsTheInvariant : Obligations.StepKeepsTheInvariant := by
  rintro s t ⟨hmem, hpc, hcounter⟩ h
  obtain ⟨harm, hstep⟩ := step_next h
  have hpc4 : s.pc.extractLsb' 0 2 = 0 := pcAligned_arm hpc harm
  have hhalved : ∀ c : BitVec 2, c ≠ 2 → c >>> 1 ≠ 2 := by decide
  obtain ⟨-, e⟩ | ⟨-, -, e⟩ | ⟨hc, -, u, hu, e⟩ := hstep <;> rw [e]
  · exact ⟨hmem, .inl (aligned_add_four hpc4), hhalved _ hcounter⟩
  · exact ⟨hmem, .inl (aligned_add_four hpc4), hcounter⟩
  · have hk : Kept (shift s) u := exec_kept _ _ _ hu
    obtain ⟨haligned, hlegal⟩ := finish_keeps hk hc hpc4
    exact ⟨by rw [finish_mem]; exact hk.wf hmem, haligned, hlegal⟩

/-- Settles O11: `step_slots`, for one step and for the step after it. -/
theorem everyStepShiftsTheWindow : Obligations.EveryStepShiftsTheWindow := by
  intro s t h
  obtain ⟨hexecute, hdecode, hfetch⟩ := step_slots h
  refine ⟨hexecute, hdecode, hfetch, fun u hu => ?_⟩
  obtain ⟨hexecute', hdecode', -⟩ := step_slots hu
  exact ⟨hexecute'.trans hdecode, hdecode'.trans hfetch⟩

/-! ### Reset (R44, R460) -/

theorem boot_inv {l : Launch} (h : l.mem.wf) : (State.boot l).Inv :=
  ⟨h, .inl (aligned_and l.params.resetPC), show (3 : BitVec 2) ≠ 2 by decide⟩

theorem launch_mem_wf : launch.mem.wf := ⟨.nil, by simp [launch]⟩

/-- Settles O14: reset writes pc with bits 1:0 cleared and sets the counter to 3; the launch this model names has an empty memory. -/
theorem resetHasTheInvariant : Obligations.ResetHasTheInvariant :=
  ⟨fun _ => boot_inv, launch_mem_wf, boot_inv launch_mem_wf⟩

/-- Settles O18: the fields that `applyReset` and `State.boot` set. -/
theorem resetState : Obligations.ResetState :=
  ⟨fun s => ⟨applyReset_counter s, applyReset_fetchSlot s, applyReset_decodeSlot s, applyReset_executeSlot s, applyReset_pc s⟩,
    fun _ => ⟨rfl, rfl, rfl, rfl, rfl⟩, by decide⟩

/-! ### A register after a write (R33, R34, R35) -/

theorem reg_setReg_self (s : State) {i : Reg} (v : Word) (h : i ≠ Reg.pc) : (s.setReg i v).reg i = v := by
  have hi := lt_of_ne_pc h
  rw [reg_of_lt _ _ hi, setReg_of_lt _ _ _ hi]
  exact get_set_self _ _ _

theorem setReg_counter {s : State} {i : Reg} (v : Word) (h : i ≠ Reg.pc) : (s.setReg i v).counter = s.counter := by
  rw [setReg_of_lt _ _ _ (lt_of_ne_pc h)]

theorem setReg_pc {s : State} {i : Reg} (v : Word) (h : i ≠ Reg.pc) : (s.setReg i v).pc = s.pc := by
  rw [setReg_of_lt _ _ _ (lt_of_ne_pc h)]

/-- Two register numbers of one mode are two physical registers, in any context. -/
theorem reg_setReg_ne (s : State) {i j : Reg} (v : Word) (h : j ≠ i) : (s.setReg i v).reg j = s.reg j := by
  by_cases hj : j = Reg.pc
  · subst hj
    exact setReg_pc v h.symm
  · have hj' := lt_of_ne_pc hj
    rw [reg_of_lt _ _ hj', reg_of_lt _ _ hj', cellOf_congr (setReg_params s i v) (congrArg _ (setReg_cpsr s i v))]
    apply setReg_regs_get
    unfold State.cell?
    split
    · intro e
      have hcell := cellIn_injective _ _ _ _ (Option.some.inj e)
      exact h (Fin.ext (Fin.mk.inj hcell).symm)
    · simp

/-- Settles O24: a write of r0..r14 is a write of one physical register, and a write of r15 is a PC write. -/
theorem registerReadsAsWritten : Obligations.RegisterReadsAsWritten := by
  intro s i j v
  exact ⟨fun hi => ⟨reg_setReg_self s v hi, setReg_counter v hi⟩, rfl, rfl, reg_setReg_ne s v⟩

end Sys2Proof.Proofs
end

section
/-! What an instruction leaves unchanged: the registers (O19), the flags (O21), and the rest of the status registers, the window, the
parameters and the record of accesses (O22). `exec_frame` says it once for every instruction. -/

namespace Sys2Proof.Proofs

open Sys2Proof Sys2Proof.Machine Sys2Proof.Laws

/-! ### Updates that write no status register but, perhaps, the flags -/

/-- From `s` to `t`, of the registers only those numbered in `ds` are written, in the bank of the current mode; of the status registers only
the flags, and those only if `flags`; the default memory records no access. -/
structure Writes (ds : List Reg) (flags : Bool) (s t : State) : Prop where
  regs : ∀ c, (∀ i ∈ ds, s.cell? i ≠ some c) → t.regs.get c = s.regs.get c
  flags : flags = false → t.cpsr = s.cpsr
  rest : t.cpsr.rest = s.cpsr.rest
  spsr : t.spsr = s.spsr
  params : t.params = s.params
  bus : s.params.mem = .flat → t.bus = s.bus

theorem writes_refl (s : State) : Writes [] false s s := ⟨fun _ _ => rfl, fun _ => rfl, rfl, rfl, rfl, fun _ => rfl⟩

/-- An access writes no register; the default memory does not record it. -/
theorem writes_busAs {s u : State} {b : List Access} (hregs : u.regs = s.regs) (hcpsr : u.cpsr = s.cpsr) (hspsr : u.spsr = s.spsr)
    (hparams : u.params = s.params) (hbus : u.bus = s.busAs b) : Writes [] false s u :=
  ⟨fun _ _ => by rw [hregs], fun _ => hcpsr, by rw [hcpsr], hspsr, hparams, fun h => hbus.trans (busAs_flat h b)⟩

theorem writes_ask (s : State) (x : Access) : Writes [] false s (s.ask x) := writes_busAs rfl rfl rfl rfl rfl

theorem writes_ask64 (s : State) (a : Word) : Writes [] false s (s.ask64 a) := writes_busAs rfl rfl rfl rfl (ask64_bus s a)

theorem writes_askWords (s : State) (a : Word) (n : Nat) : Writes [] false s (s.askWords a n) := writes_busAs rfl rfl rfl rfl rfl

theorem writes_put (s : State) (x : Access) (m : Memory) : Writes [] false s (s.put x m) := writes_busAs rfl rfl rfl rfl rfl

theorem writes_store64 (s : State) (a : Word) (v : BitVec 64) : Writes [] false s (s.store64 a v) := writes_busAs rfl rfl rfl rfl rfl

theorem writes_storeWords (s : State) (a : Word) (vs : List Word) : Writes [] false s (s.storeWords a vs) :=
  writes_busAs rfl rfl rfl rfl rfl

theorem writes_draw (s : State) : Writes [] false s { s with draws := s.draws + 1 } := { writes_refl s with }

section
variable {ds es : List Reg} {fl : Bool} {s t u : State}

theorem Writes.mono (h : Writes ds fl s t) (hsub : ds ⊆ es) : Writes es fl s t :=
  { h with regs := fun c hc => h.regs c fun i hi => hc i (hsub hi) }

theorem Writes.trans (h : Writes ds fl s t) (g : Writes es false t u) : Writes (es ++ ds) fl s u where
  regs := fun c hc => by
    have hcell : ∀ i, t.cell? i = s.cell? i := cell?_congr h.params (congrArg (BitVec.extractLsb' 0 5) h.rest)
    rw [g.regs c fun i hi => by rw [hcell]; exact hc i (List.mem_append_left _ hi),
      h.regs c fun i hi => hc i (List.mem_append_right _ hi)]
  flags := fun hfl => (g.flags rfl).trans (h.flags hfl)
  rest := g.rest.trans h.rest
  spsr := g.spsr.trans h.spsr
  params := g.params.trans h.params
  bus := fun hm => (g.bus (by rw [h.params]; exact hm)).trans (h.bus hm)

theorem writes_setReg (s : State) (i : Reg) (v : Word) : Writes [i] false s (s.setReg i v) where
  regs := fun c hc => setReg_regs_get s i v c (hc i (List.mem_singleton.mpr rfl))
  flags := fun _ => setReg_cpsr s i v
  rest := by rw [setReg_cpsr]
  spsr := setReg_spsr s i v
  params := setReg_params s i v
  bus := fun _ => setReg_bus s i v

theorem Writes.setReg (h : Writes ds fl s t) (i : Reg) (v : Word) : Writes (i :: ds) fl s (t.setReg i v) :=
  h.trans (writes_setReg t i v)

theorem Writes.writePc (h : Writes ds fl s t) (v : Word) : Writes ds fl s (t.writePc v) := { h with }

/-- The flags are committed, and perhaps a free value drawn. -/
theorem Writes.commit (h : Writes ds false s t) (hregs : u.regs = t.regs) (hrest : u.cpsr.rest = t.cpsr.rest) (hspsr : u.spsr = t.spsr)
    (hparams : u.params = t.params) (hbus : u.bus = t.bus) : Writes ds true s u where
  regs := by rw [hregs]; exact h.regs
  flags := fun hfl => by cases hfl
  rest := hrest.trans h.rest
  spsr := hspsr.trans h.spsr
  params := hparams.trans h.params
  bus := by rw [hbus]; exact h.bus

theorem Writes.writeBack2 (h : Writes [] fl s t) (a : Mode2) (r : State) :
    Writes (wbBase2 a) fl s (t.writeBack a.n (resolveMode2 a r)) := by
  obtain ⟨ix, up, n, off⟩ := a
  cases ix with
  | offset => exact h
  | pre | post => exact h.setReg n _

theorem Writes.writeBack3 (h : Writes [] fl s t) (a : Mode3) (r : State) :
    Writes (wbBase3 a) fl s (t.writeBack a.n (resolveMode3 a r)) := by
  obtain ⟨ix, up, n, off⟩ := a
  cases ix with
  | offset => exact h
  | pre | post | postW => exact h.setReg n _

theorem Writes.blockWriteBack (h : Writes [] fl s t) (a : Mode4) (v : Word) :
    Writes (if a.w then [a.n] else []) fl s (blockWriteBack a v t) := by
  unfold Machine.blockWriteBack
  split
  · exact h.setReg a.n v
  · exact h

theorem Writes.setPair (h : Writes [] fl s t) (dLo dHi : Reg) (r : BitVec 64) : Writes [dLo, dHi] fl s (t.setPair dLo dHi r) :=
  ((h.setReg dLo _).setReg dHi _).mono (by simp)

end

/-! ### The shared operations -/

section
variable {s t : State}

theorem writes_dpPlain {op n d o} (h : dpPlain op n d o s = .next t) : Writes [d] false s t := by
  rw [dpPlain_next h]
  exact writes_setReg s d _

theorem writes_commitFlags (s : State) (r : AluResult) : Writes [] true s (s.commitFlags r) :=
  (writes_refl s).commit rfl rfl rfl rfl rfl

theorem writes_dpCompare {op n o} (h : dpCompare op n o s = .next t) : Writes [] true s t := by
  rw [dpCompare_next h]
  exact writes_commitFlags s _

theorem writes_mul {cs d r} (h : guardUnpred cs s (.next (s.setReg d r)) = .next t) : Writes [d] false s t := by
  cases guardUnpred_next h
  exact writes_setReg s d r

theorem writes_muls {cs d r} (h : guardUnpred cs s (.next ((s.setReg d r).commitMul r)) = .next t) : Writes [d] true s t := by
  cases guardUnpred_next h
  exact (writes_setReg s d r).commit rfl rfl rfl rfl rfl

theorem writes_mulLong {r dLo dHi m rs} (h : mulLong r dLo dHi m rs s = .next t) : Writes [dLo, dHi] false s t := by
  rw [mulLong_next h]
  exact (writes_refl s).setPair dLo dHi r

theorem writes_mulLongFlags {r dLo dHi m rs} (h : mulLongFlags r dLo dHi m rs s = .next t) : Writes [dLo, dHi] true s t := by
  rw [mulLongFlags_next h]
  exact ((writes_refl s).setPair dLo dHi r).commit rfl rfl rfl rfl rfl

theorem writes_load2 {cs w d a v x} (h : loadWith cs w a.n d (resolveMode2 a s) v x s = .next t) : Writes (d :: wbBase2 a) false s t := by
  rw [loadWith_next h]
  exact ((writes_ask s x).writeBack2 a s).setReg d v

theorem writes_load3 {cs w d a v x} (h : loadWith cs w a.n d (resolveMode3 a s) v x s = .next t) : Writes (d :: wbBase3 a) false s t := by
  rw [loadWith_next h]
  exact ((writes_ask s x).writeBack3 a s).setReg d v

theorem writes_store2 {cs w a u} (h : storeWith cs w a.n (resolveMode2 a s) u s = .next t) (hu : Writes [] false s u) :
    Writes (wbBase2 a) false s t := by
  rw [storeWith_next h]
  exact hu.writeBack2 a s

theorem writes_store3 {cs w a u} (h : storeWith cs w a.n (resolveMode3 a s) u s = .next t) (hu : Writes [] false s u) :
    Writes (wbBase3 a) false s t := by
  rw [storeWith_next h]
  exact hu.writeBack3 a s

theorem writes_ldrd {d a} (h : execLdrd d a s = .next t) : Writes (d :: (d + 1) :: wbBase3 a) false s t := by
  cases guardAligned_next (guardUnpred_next h)
  exact ((((writes_ask64 s _).writeBack3 a s).setReg d _).setReg (d + 1) _).mono (List.Perm.swap _ _ _).subset

theorem writes_stm {a} (h : execStm a s = .next t) : Writes (if a.w then [a.n] else []) false s t := by
  rw [execStm_next h]
  exact (writes_storeWords s _ _).blockWriteBack a _

theorem writes_mrsSpsr {d} (h : execMrsSpsr d s = .next t) : Writes [d] false s t := by
  have hnext := guardUnpred_next h
  split at hnext <;> cases hnext
  · exact writes_setReg s d _
  · exact (writes_draw s).setReg d _

end

/-! ### Every instruction -/

/-- What instruction `i`, from `s` to `t`, leaves unchanged. -/
structure Frame (i : Instr) (s t : State) : Prop where
  regs : ∀ c, c ∉ writtenCells i s → t.regs.get c = s.regs.get c
  flags : writesFlags i s = false → t.cpsr.n = s.cpsr.n ∧ t.cpsr.z = s.cpsr.z ∧ t.cpsr.c = s.cpsr.c ∧ t.cpsr.v = s.cpsr.v
  rest : writesStatus i = false → t.cpsr.rest = s.cpsr.rest
  spsr : writesSpsr i = false → t.spsr = s.spsr
  bus : s.params.mem = .flat → t.bus = s.bus

theorem flags_of_cpsr_eq {p q : Psr} (h : p = q) : p.n = q.n ∧ p.z = q.z ∧ p.c = q.c ∧ p.v = q.v := by
  subst h
  exact ⟨rfl, rfl, rfl, rfl⟩

theorem cell?_ne_of_notMem {i : Instr} {s : State} {c : RegCell} (hc : c ∉ writtenCells i s) {r : Reg} (hr : r ∈ dests i) :
    s.cell? r ≠ some c := fun e =>
  hc (List.mem_append_left _ (List.mem_append_left _ (List.mem_filterMap.mpr ⟨r, hr, e⟩)))

theorem userCell?_ne_of_notMem {i : Instr} {s : State} {c : RegCell} (hc : c ∉ writtenCells i s) {r : Reg} (hr : r ∈ userDests i) :
    s.userCell? r ≠ some c := fun e =>
  hc (List.mem_append_left _ (List.mem_append_right _ (List.mem_filterMap.mpr ⟨r, hr, e⟩)))

theorem notMem_entryCells {i : Instr} {s : State} {c : RegCell} (hc : c ∉ writtenCells i s) : c ∉ entryCells i s := fun h =>
  hc (List.mem_append_right _ h)

theorem Writes.frame {i : Instr} {s t : State} (h : Writes (dests i) (writesFlags i s) s t) : Frame i s t where
  regs := fun c hc => h.regs c fun _ hr => cell?_ne_of_notMem hc hr
  flags := fun hfl => flags_of_cpsr_eq (h.flags hfl)
  rest := fun _ => h.rest
  spsr := fun _ => h.spsr
  bus := h.bus

/-- The data-processing forms with S = 1. -/
theorem frame_dpFlags {op n d o s t} {i : Instr} (h : dpFlags op n d o s = .next t) (hdests : dests i = [d])
    (hflags : writesFlags i s = true) (hstatus : writesStatus i = (d == Reg.pc)) : Frame i s t := by
  rcases dpFlags_next h with ⟨hd, e⟩ | ⟨-, e⟩ <;> rw [e]
  · refine ⟨fun c _ => by rw [returnFromException_regs], fun hfl => ?_, fun hst => ?_, fun _ => returnFromException_spsr s _,
      fun _ => returnFromException_bus s _⟩
    · rw [hflags] at hfl; cases hfl
    · rw [hstatus, hd] at hst; cases hst
  · apply Writes.frame
    rw [hdests, hflags]
    exact (writes_commitFlags s _).setReg d _

theorem frame_bx (c : Cond) {m s t} (h : execBx m s = .next t) : Frame (.bx c m) s t := by
  rcases execBx_next h with ⟨-, e⟩ | ⟨-, e⟩ <;> rw [e]
  · exact ⟨fun _ _ => rfl, fun _ => ⟨rfl, rfl, rfl, rfl⟩, nofun, fun _ => rfl, fun _ => rfl⟩
  · exact Writes.frame (i := .bx c m) ((writes_refl s).writePc _)

/-- MSR of CPSR leaves the bits of a field that is not selected (R365). -/
theorem writeCpsr_bit {s : State} {mask : BitVec 4} {v : Word} {k : Nat} (hk : k < 32) (hmask : mask.getLsbD (k / 8) = false) :
    (s.writeCpsr mask v).cpsr.toWord.getLsbD k = s.cpsr.toWord.getLsbD k := by
  rw [writeCpsr_cpsr, toWord_ofWord, mergeBits_getLsbD _ _ _ _ hk, BitVec.getLsbD_and, fieldBits_getLsbD _ _ hk, hmask]
  rfl

/-- With no field selected, MSR writes no bit (R365). -/
theorem writeCpsr_zero (s : State) (v : Word) : (s.writeCpsr 0 v).cpsr = s.cpsr := by
  have hword : (s.writeCpsr 0 v).cpsr.toWord = s.cpsr.toWord := BitVec.eq_of_getLsbD_eq fun k hk => writeCpsr_bit hk (by simp)
  rw [← ofWord_toWord (s.writeCpsr 0 v).cpsr, hword, ofWord_toWord]

theorem frame_msrCpsr (c : Cond) {mask o s t} (h : execMsrCpsr mask o s = .next t) : Frame (.msrCpsr c mask o) s t := by
  cases guardUnpred_next h
  refine ⟨fun _ _ => rfl, fun hfl => ?_, fun hst => ?_, fun _ => rfl, fun _ => rfl⟩
  · have hbit : ∀ k, k < 32 → k / 8 = 3 → _ := fun k hk h3 =>
      writeCpsr_bit (s := s) (v := resolvePsrOperand o s) hk (show mask.getLsbD (k / 8) = false by rw [h3]; exact hfl)
    have hn := hbit 31 (by decide) (by decide)
    have hz := hbit 30 (by decide) (by decide)
    have hc := hbit 29 (by decide) (by decide)
    have hv := hbit 28 (by decide) (by decide)
    rw [toWord_getLsbD, toWord_getLsbD] at hn hz hc hv
    exact ⟨hn, hz, hc, hv⟩
  · have hmask : mask = 0 := by simpa [writesStatus] using hst
    rw [hmask, writeCpsr_zero]

theorem frame_msrSpsr (c : Cond) {mask o s t} (h : execMsrSpsr mask o s = .next t) : Frame (.msrSpsr c mask o) s t := by
  cases guardUnpred_next h
  refine ⟨fun _ _ => by rw [writeSpsr_regs], fun _ => flags_of_cpsr_eq (writeSpsr_cpsr s mask _), fun _ => by rw [writeSpsr_cpsr],
    nofun, fun _ => writeSpsr_bus s mask _⟩

theorem entryCells_given {i : Instr} {s : State} (h : givenEntry i s = true) : entryCells i s = allCells := if_pos h

section
variable {i : Instr} {s : State} (hstatus : writesStatus i = true) (hspsr : writesSpsr i = true)
include hstatus hspsr

/-- A reference entry writes r14 of the new mode, and keeps the flags (R433). -/
theorem frame_takeException {m : ExcMode} (link vector : Word) (b : Bool) (hcell : cellIn s.params.ctx m.code 14 ∈ entryCells i s) :
    Frame i s (takeException m link vector b s) where
  regs := fun c hc => get_set_ne _ _ _ _ fun e => notMem_entryCells hc (by rw [e]; exact hcell)
  flags := fun _ => ⟨rfl, rfl, rfl, rfl⟩
  rest := by simp [hstatus]
  spsr := by simp [hspsr]
  bus := fun _ => rfl

/-- Of an entry given, nothing is known but that it leaves memory alone (log 18). -/
theorem frame_enter (e : Entered) (hgiven : givenEntry i s = true) (hflags : writesFlags i s = true) : Frame i s (s.enter e) where
  regs := fun c hc => absurd (mem_allCells c) (by rw [← entryCells_given hgiven]; exact notMem_entryCells hc)
  flags := by simp [hflags]
  rest := by simp [hstatus]
  spsr := by simp [hspsr]
  bus := fun _ => enter_bus s e

end

theorem frame_swi (c : Cond) {comment s t} (h : execSwi comment s = .next t) : Frame (.swi c comment) s t := by
  rcases execSwi_next h with ⟨hp, e⟩ | ⟨hp, e⟩ <;> rw [e]
  · exact frame_takeException rfl rfl _ _ _ (by simp [entryCells, givenEntry, hp, ExcMode.code])
  · have hgiven : givenEntry (.swi c comment) s = true := by simp [givenEntry, hp]
    exact frame_enter rfl rfl _ hgiven hgiven

theorem frame_undefined {c bits s t} (h : execUndefined c bits s = .next t) : Frame (.undefined c bits) s t := by
  rcases execUndefined_next h with ⟨hp, e⟩ | ⟨hp, e⟩ <;> rw [e]
  · exact frame_takeException rfl rfl _ _ _ (by simp [entryCells, givenEntry, hp, ExcMode.code])
  · have hgiven : givenEntry (.undefined c bits) s = true := by simp [givenEntry, hp]
    exact frame_enter rfl rfl _ hgiven hgiven

/-! ### LDM -/

theorem mem_allRegs (i : Reg) : i ∈ allRegs := by
  revert i
  decide

theorem mem_listRegs {l : BitVec 16} {i : Reg} : i ∈ listRegs l ↔ l.getLsbD i.val = true := by
  simp [listRegs, mem_allRegs]

/-- A block transfer moves r15 last (R196). -/
theorem blockRegs_sorted (a : Mode4) : (blockRegs a).Pairwise (· < ·) := by
  unfold blockRegs listRegs
  split
  · exact List.pairwise_singleton _ _
  · exact List.Pairwise.filter _ (by decide)

/-- What every register load keeps, all of them keep. -/
theorem foldl_loadOne_field {α : Type} (f : State → α) (a : Mode4) (hf : ∀ s iv, f (loadOne a s iv) = f s) (l : List (Reg × Word)) :
    ∀ s, f (l.foldl (loadOne a) s) = f s := by
  induction l with
  | nil => exact fun _ => rfl
  | cons iv l ih => exact fun s => (ih _).trans (hf s iv)

theorem loadOne_spsr (a : Mode4) (s : State) (iv : Reg × Word) : (loadOne a s iv).spsr = s.spsr := by
  unfold loadOne
  split <;> split <;> simp

theorem loadOne_bus (a : Mode4) (s : State) (iv : Reg × Word) : (loadOne a s iv).bus = s.bus := by
  unfold loadOne
  split <;> split <;> simp

theorem loadOne_cpsr (a : Mode4) (s : State) (iv : Reg × Word) (h : a.s = false ∨ iv.1 ≠ Reg.pc) :
    (loadOne a s iv).cpsr = s.cpsr := by
  unfold loadOne
  split
  · have hs : a.s = false := h.resolve_right fun hne => hne ‹_›
    simp [hs]
  · split <;> simp

theorem loadOne_params (a : Mode4) (s : State) (iv : Reg × Word) : (loadOne a s iv).params = s.params := by
  obtain ⟨-, -, -, hp, -⟩ := keptC_loadOne a s iv
  exact hp

theorem foldl_loadOne_cpsr (a : Mode4) (l : List (Reg × Word)) (h : a.s = false ∨ ∀ iv ∈ l, iv.1 ≠ Reg.pc) :
    ∀ s : State, (l.foldl (loadOne a) s).cpsr = s.cpsr := by
  induction l with
  | nil => exact fun _ => rfl
  | cons iv l ih =>
    intro s
    have hl : a.s = false ∨ ∀ x ∈ l, x.1 ≠ Reg.pc := h.imp_right fun g x hx => g x (List.mem_cons_of_mem _ hx)
    exact (ih hl _).trans (loadOne_cpsr a s iv (h.imp_right fun g => g iv List.mem_cons_self))

/-- Register `r` is not the physical register `c`, in the bank that the LDM `a` loads. -/
def LoadAvoids (a : Mode4) (s : State) (c : RegCell) (r : Reg) : Prop :=
  if a.s && !listHasPc a then s.userCell? r ≠ some c else s.cell? r ≠ some c

theorem loadOne_regs {a : Mode4} {s : State} {c : RegCell} {iv : Reg × Word} (h : LoadAvoids a s c iv.1) :
    (loadOne a s iv).regs.get c = s.regs.get c := by
  unfold LoadAvoids at h
  unfold loadOne
  split
  · split <;> simp
  · split at h
    · rw [if_pos ‹_›]; exact setUserReg_regs_get _ _ _ _ h
    · rw [if_neg ‹_›]; exact setReg_regs_get _ _ _ _ h

theorem LoadAvoids.congr {a : Mode4} {s t : State} {c : RegCell} {r : Reg} (h : LoadAvoids a s c r) (hp : t.params = s.params)
    (hc : t.cpsr = s.cpsr) : LoadAvoids a t c r := by
  unfold LoadAvoids at *
  rwa [userCell?_congr hp, cell?_congr hp (by rw [hc])]

/-- r15 is loaded last, so the mode is the same at each load before it. -/
theorem foldl_loadOne_regs (a : Mode4) (c : RegCell) (l : List (Reg × Word)) (hsorted : l.Pairwise (fun x y => x.1 < y.1)) :
    ∀ s : State, (∀ iv ∈ l, LoadAvoids a s c iv.1) → (l.foldl (loadOne a) s).regs.get c = s.regs.get c := by
  induction l with
  | nil => exact fun _ _ => rfl
  | cons iv l ih =>
    intro s h
    rw [List.pairwise_cons] at hsorted
    obtain ⟨hlt, hsorted⟩ := hsorted
    rw [List.foldl_cons, ih hsorted, loadOne_regs (h iv List.mem_cons_self)]
    intro x hx
    have hne : iv.1 ≠ Reg.pc := fun e => absurd (hlt x hx) (by rw [e]; exact Nat.not_lt.mpr (Nat.le_of_lt_succ x.1.isLt))
    exact (h x (List.mem_cons_of_mem _ hx)).congr (loadOne_params a s iv) (loadOne_cpsr a s iv (.inr hne))

/-- The registers loaded with their words, in ascending order. -/
theorem zip_sorted {l : List Reg} (h : l.Pairwise (· < ·)) : ∀ vs : List Word, (l.zip vs).Pairwise (fun x y => x.1 < y.1) := by
  induction h with
  | nil => intro vs; simp
  | @cons x l hlt _ ih =>
    intro vs
    cases vs with
    | nil => simp
    | cons v vs => exact List.pairwise_cons.mpr ⟨fun y hy => hlt _ (List.of_mem_zip hy).1, ih vs⟩

/-- r15 is no physical register. -/
theorem loadAvoids_pc (a : Mode4) (s : State) (c : RegCell) : LoadAvoids a s c Reg.pc := by
  unfold LoadAvoids
  split
  · exact nofun
  · exact nofun

theorem mem_listRegs_of_mem_blockRegs {a : Mode4} {r : Reg} (hr : r ∈ blockRegs a) (hne : r ≠ Reg.pc) : r ∈ listRegs a.list := by
  unfold blockRegs at hr
  split at hr
  · exact absurd (List.mem_singleton.mp hr) hne
  · exact hr

theorem loadAvoids_of_notMem {cd : Cond} {a : Mode4} {s : State} {c : RegCell} (hc : c ∉ writtenCells (.ldm cd a) s) {r : Reg}
    (hr : r ∈ blockRegs a) : LoadAvoids a s c r := by
  by_cases hpc : r = Reg.pc
  · rw [hpc]
    exact loadAvoids_pc a s c
  · have hlist : r ∈ listRegs a.list := mem_listRegs_of_mem_blockRegs hr hpc
    unfold LoadAvoids listHasPc
    split
    · exact userCell?_ne_of_notMem hc (by rw [userDests, if_pos ‹_›]; exact hlist)
    · exact cell?_ne_of_notMem hc (List.mem_append_right _ (by rw [if_neg ‹_›]; exact hlist))

/-- An LDM that does not restore CPSR has S = 0 or does not transfer r15. -/
theorem not_restoringLdm {a : Mode4} (h : restoringLdm a = false) : a.s = false ∨ Reg.pc ∉ blockRegs a := by
  by_cases hs : a.s = true
  · right
    simp only [restoringLdm, hs, Bool.true_and, Bool.or_eq_false_iff, beq_eq_false_iff_ne] at h
    rw [blockRegs, if_neg h.2, mem_listRegs]
    simpa using h.1
  · exact .inl (Bool.eq_false_iff.mpr hs)

theorem frame_ldm (cd : Cond) {a s t} (h : execLdm a s = .next t) : Frame (.ldm cd a) s t := by
  rw [execLdm_next h]
  generalize s.loadWords _ _ = vs
  generalize hu : blockWriteBack a _ _ = u
  have hbase : Writes (if a.w then [a.n] else []) false s u := by
    rw [← hu]
    exact (writes_askWords s _ _).blockWriteBack a _
  have hmem : ∀ iv ∈ (blockRegs a).zip vs, iv.1 ∈ blockRegs a := fun iv hiv => (List.of_mem_zip hiv).1
  have hcpsr (hr : restoringLdm a = false) : (((blockRegs a).zip vs).foldl (loadOne a) u).cpsr = s.cpsr := by
    rw [foldl_loadOne_cpsr, hbase.flags rfl]
    exact (not_restoringLdm hr).imp_right fun hpc iv hiv e => hpc (e ▸ hmem iv hiv)
  refine ⟨fun c hc => ?_, fun hfl => flags_of_cpsr_eq (hcpsr hfl), fun hst => congrArg _ (hcpsr hst),
    fun _ => (foldl_loadOne_field State.spsr a (loadOne_spsr a) _ u).trans hbase.spsr,
    fun hm => (foldl_loadOne_field State.bus a (loadOne_bus a) _ u).trans (hbase.bus hm)⟩
  rw [foldl_loadOne_regs a c _ (zip_sorted (blockRegs_sorted a) vs)]
  · exact hbase.regs c fun r hr => cell?_ne_of_notMem hc (List.mem_append_left _ hr)
  · exact fun iv hiv => (loadAvoids_of_notMem hc (hmem iv hiv)).congr hbase.params (hbase.flags rfl)

/-- What every instruction leaves unchanged. -/
theorem exec_frame (i : Instr) (s t : State) (h : exec i s = .next t) : Frame i s t := by
  cases i
  case ands | eors | subs | rsbs | adds | adcs | sbcs | rscs | orrs | movs | bics | mvns => exact frame_dpFlags h rfl rfl rfl
  case bx c _ => exact frame_bx c h
  case msrCpsr c _ _ => exact frame_msrCpsr c h
  case msrSpsr c _ _ => exact frame_msrSpsr c h
  case swi c _ => exact frame_swi c h
  case undefined => exact frame_undefined h
  case ldm c _ => exact frame_ldm c h
  all_goals apply Writes.frame
  case and | eor | sub | rsb | add | adc | sbc | rsc | orr | mov | bic | mvn => exact writes_dpPlain h
  case tst | teq | cmp | cmn => exact writes_dpCompare h
  case mul | mla | mrsCpsr => exact writes_mul h
  case muls | mlas => exact writes_muls h
  case umull | umlal | smull | smlal => exact writes_mulLong h
  case umulls | umlals | smulls | smlals => exact writes_mulLongFlags h
  case ldr | ldrb | ldrt | ldrbt => exact writes_load2 h
  case ldrh | ldrsb | ldrsh => exact writes_load3 h
  case str | strb | strt | strbt => exact writes_store2 h (writes_put _ _ _)
  case strh => exact writes_store3 h (writes_put _ _ _)
  case strd => exact writes_store3 h (writes_store64 _ _ _)
  case ldrd => exact writes_ldrd h
  case stm => exact writes_stm h
  case mrsSpsr => exact writes_mrsSpsr h
  case b => cases h; exact (writes_refl s).writePc _
  case bl => cases h; exact (writes_setReg s _ _).writePc _
  case swp =>
    cases guardAligned_next (guardUnpred_next h)
    exact ((writes_ask s _).trans (writes_put _ _ _)).setReg _ _
  case swpb =>
    cases guardUnpred_next h
    exact ((writes_ask s _).trans (writes_put _ _ _)).setReg _ _

/-! ### The statements -/

/-- Settles O19: `exec_frame`, its registers. -/
theorem registerFrame : Obligations.RegisterFrame := fun i s t c h => (exec_frame i s t h).regs c

/-- Settles O21: `exec_frame`, its flags. -/
theorem flagFrame : Obligations.FlagFrame := fun i s t h => (exec_frame i s t h).flags

/-- Settles O22: `exec_frame` for the status registers and the record of accesses, and `exec_kept` for the slots and the parameters. -/
theorem statusFrame : Obligations.StatusFrame := by
  intro i s t h
  have hframe := exec_frame i s t h
  have hkept := exec_kept i s t h
  exact ⟨hframe.rest, hframe.spsr, hkept.f, hkept.d, hkept.e, hkept.p, hframe.bus⟩

end Sys2Proof.Proofs
end

section
/-! MRS and MSR (O56, O57), and the stores: STR, STRB, STRT and STRBT (O44), and STM (O51). -/

namespace Sys2Proof.Proofs

open Sys2Proof Sys2Proof.Machine Sys2Proof.Laws

/-! ### The checks of a handler that goes on -/

theorem guardUnpred_pass {cs : List (UnpredReason × Bool)} {s : State} (k : Outcome)
    (h : s.params.unpred = .compute ∨ firstReason cs = none) : guardUnpred cs s k = k :=
  h.elim (guardUnpred_compute cs s k) (guardUnpred_none cs s k)

theorem misaligned_word {a : Word} (h : a.extractLsb' 0 2 = 0) : misaligned .word a = false := by
  simp [misaligned, h]

/-! ### MRS (R366) -/

theorem hasSpsr_eq (s : State) : s.hasSpsr = s.exc?.isSome := by simp [State.hasSpsr, State.currentSpsr]

theorem currentSpsr_some {s : State} {m : ExcMode} (h : s.exc? = some m) : s.currentSpsr = some (s.spsr.get m) := by
  simp [State.currentSpsr, h]

theorem currentSpsr_none {s : State} (h : s.exc? = none) : s.currentSpsr = none := by simp [State.currentSpsr, h]

/-- The layout of a status register (R37). -/
theorem toWord_layout (p : Psr) :
    p.toWord.getLsbD 31 = p.n ∧ p.toWord.getLsbD 30 = p.z ∧ p.toWord.getLsbD 29 = p.c ∧ p.toWord.getLsbD 28 = p.v
      ∧ p.toWord.getLsbD 7 = p.i ∧ p.toWord.getLsbD 6 = p.f ∧ p.toWord.getLsbD 5 = p.t
      ∧ p.toWord.extractLsb' 0 5 = p.modeCode ∧ p.toWord.extractLsb' 0 28 = p.rest := by
  simp only [toWord_getLsbD]
  refine ⟨rfl, rfl, rfl, rfl, rfl, rfl, rfl, ?_, ?_⟩
  · refine BitVec.eq_of_getLsbD_eq fun k hk => ?_
    rw [Psr.modeCode, BitVec.getLsbD_extractLsb', BitVec.getLsbD_extractLsb', toWord_getLsbD, if_pos (by omega)]
  · exact congrArg Psr.rest (ofWord_toWord p)

theorem exec_mrsSpsr_some {s : State} {m : ExcMode} (h : s.exc? = some m) (c : Cond) (d : Reg) :
    exec (.mrsSpsr c d) s
      = guardUnpred [(.spsrAccessNoSPSR, false), (.transferPC, d == Reg.pc)] s (.next (s.setReg d (s.spsr.get m).toWord)) := by
  show execMrsSpsr d s = _
  simp [execMrsSpsr, State.hasSpsr, currentSpsr_some h]

theorem exec_mrsSpsr_none {s : State} (h : s.exc? = none) (c : Cond) (d : Reg) :
    exec (.mrsSpsr c d) s
      = guardUnpred [(.spsrAccessNoSPSR, true), (.transferPC, d == Reg.pc)] s
        (.next (State.setReg { s with draws := s.draws + 1 } d (Config.absentSpsr s.draws))) := by
  show execMrsSpsr d s = _
  simp [execMrsSpsr, State.hasSpsr, currentSpsr_none h]

/-- Settles O56: each form behind its checks, of which the first that holds halts. -/
theorem moveFromStatus : Obligations.MoveFromStatus := by
  intro c d s
  refine ⟨fun h => ⟨?_, fun m hm => ?_⟩, fun hm hp => ?_, fun hp => ?_, fun hp hm => ?_, fun hp hm => ?_, fun p => ?_⟩
  · exact guardUnpred_pass _ (h.imp_right fun hd => by simp [firstReason_cons, firstReason_nil, hd])
  · rw [exec_mrsSpsr_some hm]
    exact guardUnpred_pass _ (h.imp_right fun hd => by simp [firstReason_cons, firstReason_nil, hd])
  · rw [exec_mrsSpsr_none hm]
    exact ⟨_, guardUnpred_compute _ _ _ hp⟩
  · exact guardUnpred_some _ _ _ _ hp rfl
  · rw [exec_mrsSpsr_none hm]
    exact guardUnpred_some _ _ _ _ hp rfl
  · obtain ⟨m, hm⟩ := Option.ne_none_iff_exists'.mp hm
    rw [exec_mrsSpsr_some hm]
    exact guardUnpred_some _ _ _ _ hp rfl
  · obtain ⟨hn, hz, hc, hv, hi, hf, ht, hmode, hrest⟩ := toWord_layout p
    exact ⟨hn, hz, hc, hv, hi, hf, ht, hmode, hrest, ofWord_toWord p⟩

/-! ### MSR (R367) -/

theorem bits_28_31 {k : Nat} (h : k < 32) : (0xF0000000 : Word).getLsbD k = decide (28 ≤ k) := by
  have : ∀ k : Fin 32, (0xF0000000 : Word).getLsbD k.val = decide (28 ≤ k.val) := by decide
  exact this ⟨k, h⟩

/-- The CPSR bits that the current mode may write: always the flags (log 6, log 20). -/
theorem cpsrBits_getLsbD (s : State) {k : Nat} (h : k < 32) :
    s.cpsrBits.getLsbD k = (decide (28 ≤ k) || (match s.params.ctx with
      | .reference => if s.mode = .usr then decide (8 ≤ k) && s.params.userPsrBits.getLsbD k else s.params.privPsrBits.getLsbD k
      | .given => (Config.ctxCpsrBits s.cpsr.modeCode).getLsbD k)) := by
  unfold State.cpsrBits
  cases s.params.ctx with
  | reference => exact writableBits_getLsbD _ _ _ h
  | given => rw [BitVec.getLsbD_or, bits_28_31 h, Bool.or_comm]

theorem spsrBits_getLsbD (s : State) {k : Nat} (h : k < 32) :
    s.spsrBits.getLsbD k = (match s.params.ctx with
      | .reference => true
      | .given => (Config.ctxSpsrBits s.cpsr.modeCode).getLsbD k) := by
  unfold State.spsrBits
  cases s.params.ctx with
  | reference =>
    have : ∀ k : Fin 32, (0xFFFFFFFF : Word).getLsbD k.val = true := by decide
    exact this ⟨k, h⟩
  | given => rfl

/-- A bit of a masked write of a status register (R40). -/
theorem maskedWrite_getLsbD (old v bits : Word) (mask : BitVec 4) {k : Nat} (h : k < 32) :
    (Psr.ofWord (mergeBits old v (fieldBits mask &&& bits))).toWord.getLsbD k
      = if mask.getLsbD (k / 8) && bits.getLsbD k then v.getLsbD k else old.getLsbD k := by
  rw [toWord_ofWord, mergeBits_getLsbD _ _ _ _ h, BitVec.getLsbD_and, fieldBits_getLsbD _ _ h]

theorem exec_msrSpsr_some {s : State} {m : ExcMode} (h : s.exc? = some m) (c : Cond) (mask : BitVec 4) (o : PsrOperand) :
    exec (.msrSpsr c mask o) s = .next { s with
      spsr := s.spsr.set m
        (Psr.ofWord (mergeBits (s.spsr.get m).toWord (resolvePsrOperand o s) (fieldBits mask &&& s.spsrBits))) } := by
  have hpass : exec (.msrSpsr c mask o) s = .next (s.writeSpsr mask (resolvePsrOperand o s)) :=
    guardUnpred_none _ _ _ (by simp [firstReason_cons, firstReason_nil, hasSpsr_eq, h])
  simp only [hpass, State.writeSpsr, h]

theorem writeSpsr_none {s : State} (h : s.exc? = none) (mask : BitVec 4) (v : Word) : s.writeSpsr mask v = s := by
  simp only [State.writeSpsr, h]

/-- Settles O57: `maskedWrite_getLsbD`, with the bits that the mode may write. -/
theorem moveToStatus : Obligations.MoveToStatus := by
  intro c mask o s v writable savedWritable
  have hcpsr : ∀ k, k < 32 → s.cpsrBits.getLsbD k = writable k := fun k hk => cpsrBits_getLsbD s hk
  have hspsr : ∀ k, k < 32 → s.spsrBits.getLsbD k = savedWritable k := fun k hk => spsrBits_getLsbD s hk
  refine ⟨fun h => ⟨_, guardUnpred_pass _ (h.imp_right fun hne => ?_), fun k hk => ?_⟩,
    fun hp hmask (hne : (resolvePsrOperand o s).getLsbD 5 ≠ s.thumb) => ?_,
    fun m hm => ⟨_, exec_msrSpsr_some hm c mask o, fun k hk => ?_⟩, fun hm hp => ?_, fun hm hp => ?_⟩
  · simpa [firstReason_cons, firstReason_nil] using hne
  · rw [maskedWrite_getLsbD _ _ _ _ hk, hcpsr k hk]
  · exact guardUnpred_some _ _ _ _ hp (by simpa [firstReason_cons, firstReason_nil, hmask] using hne)
  · rw [maskedWrite_getLsbD _ _ _ _ hk, hspsr k hk]
  · exact (guardUnpred_compute _ _ _ hp).trans (congrArg _ (writeSpsr_none hm mask v))
  · exact guardUnpred_some _ _ _ _ hp (by simp [firstReason_cons, hasSpsr_eq, hm])

/-! ### The single stores (R331, R334, R336, R337) -/

/-- Operands with none of the cases of R332 pass the checks. -/
theorem singleChecks_none {byte : Bool} {d : Reg} {a : Mode2} (h : regular2 byte d a) (r : UnpredReason) :
    firstReason (singleChecks r byte d a) = none := by
  obtain ⟨hbase, hoff, hd⟩ := h
  have hpc : (index2Wb a.ix && a.n == Reg.pc) = false := by
    simpa [index2Wb_iff] using fun hix => (hbase hix).1
  have hn : (index2Wb a.ix && a.n == d) = false := by
    simpa [index2Wb_iff] using fun hix => (hbase hix).2
  have hoffPc : offset2IsPc a.off = false := by
    rw [Bool.eq_false_iff, Ne, offset2IsPc_iff]
    rintro ⟨t, amt, e⟩
    exact hoff t amt e
  have hbyte : (byte && d == Reg.pc) = false := by simpa using hd
  simp [singleChecks, firstReason_cons, firstReason_nil, hpc, hn, hoffPc, hbyte]

theorem transferWith_pass {cs : List (UnpredReason × Bool)} {w : Width} {n : Reg} {ea : EffAddr} {u : State} {dest : State → State}
    {s : State} (hcs : s.params.unpred = .compute ∨ firstReason cs = none)
    (hw : s.params.misalign = .arm7tdmi ∨ misaligned w ea.addr = false) :
    transferWith cs w n ea u dest s = .next (dest (u.writeBack n ea)) :=
  (guardUnpred_pass _ hcs).trans (guardAligned_pass _ _ _ _ hw)

/-- A T form is the post-indexed form (R337). -/
theorem tMode2_eq {a : Mode2} (h : a.ix = .post) : tMode2 ⟨a.up, a.n, a.off⟩ = a := by
  obtain ⟨ix, up, n, off⟩ := a
  cases h
  rfl

theorem exec_strt {a : Mode2} (h : a.ix = .post) (c : Cond) (d : Reg) (s : State) :
    exec (.strt c d ⟨a.up, a.n, a.off⟩) s = exec (.str c d a) s := by
  show storeWord d (tMode2 ⟨a.up, a.n, a.off⟩) s = storeWord d a s
  rw [tMode2_eq h]

theorem exec_strbt {a : Mode2} (h : a.ix = .post) (c : Cond) (d : Reg) (s : State) :
    exec (.strbt c d ⟨a.up, a.n, a.off⟩) s = exec (.strb c d a) s := by
  show storeByte d (tMode2 ⟨a.up, a.n, a.off⟩) s = storeByte d a s
  rw [tMode2_eq h]

/-- Settles O44: the checks pass, and the store and the write-back are those of `storeWith`. -/
theorem singleStores : Obligations.SingleStores := by
  intro c d a s ea low value back word byte
  refine ⟨fun hreg hlow => ?_, fun hreg => ?_⟩
  · have haligned : low = 0 → misaligned .word ea.addr = false := fun h => misaligned_word (BitVec.eq_of_toNat_eq h)
    have hstr : exec (.str c d a) s = .next word :=
      transferWith_pass (hreg.imp_right fun h => singleChecks_none h _) (hlow.imp_right haligned)
    exact ⟨hstr, fun hix => (exec_strt hix c d s).trans hstr⟩
  · have hstrb : exec (.strb c d a) s = .next byte :=
      transferWith_pass (hreg.imp_right fun h => singleChecks_none h _) (.inr rfl)
    exact ⟨hstrb, fun hix => (exec_strbt hix c d s).trans hstrb⟩

end Sys2Proof.Proofs
end

section
/-! STM (O51): the words of a block transfer in memory and on the bus, and the place of a register in a list. -/

namespace Sys2Proof.Proofs

open Sys2Proof Sys2Proof.Machine Sys2Proof.Laws

/-! ### The words of a block transfer (R370) -/

/-- The words written from `a` up leave every byte outside them alone. -/
theorem read8_writeWords_ne (vs : List Word) :
    ∀ (m : Memory) (a b : Word), 4 * vs.length ≤ (b - a).toNat → (m.writeWords a vs).read8 b = m.read8 b := by
  induction vs with
  | nil => exact fun _ _ _ _ => rfl
  | cons v vs ih =>
    intro m a b h
    rw [List.length_cons] at h
    have hrest : 4 * vs.length ≤ (b - (a + 4)).toNat := by bv_omega
    calc (m.writeWords a (v :: vs)).read8 b
      _ = (m.write32 a v).read8 b := ih _ _ _ hrest
      _ = m.read8 b := read8_write32_ne m a b v (by bv_omega) (by bv_omega) (by bv_omega) (by bv_omega)

/-- Each of the words written from `a` up is read back, in a space that holds them all. -/
theorem read32_writeWords (vs : List Word) :
    ∀ (m : Memory) (a : Word) (k : Nat), m.wf → 4 * vs.length ≤ 2 ^ 32 → ∀ hk : k < vs.length,
      (m.writeWords a vs).read32 (a + 4 * BitVec.ofNat 32 k) = vs[k] := by
  induction vs with
  | nil => exact fun _ _ _ _ _ hk => absurd hk (Nat.not_lt_zero _)
  | cons v vs ih =>
    intro m a k hwf hlen hk
    rw [List.length_cons] at hlen hk
    have hwf' := wf_write32 m a v hwf
    cases k with
    | zero =>
      have hbytes : ∀ j : Word, j = 0 ∨ j = 1 ∨ j = 2 ∨ j = 3 →
          ((m.write32 a v).writeWords (a + 4) vs).read8 (a + j) = (m.write32 a v).read8 (a + j) := fun j hj =>
        read8_writeWords_ne vs _ _ _ (by rcases hj with rfl | rfl | rfl | rfl <;> bv_omega)
      calc (m.writeWords a (v :: vs)).read32 (a + 4 * BitVec.ofNat 32 0)
        _ = ((m.write32 a v).writeWords (a + 4) vs).read32 a := by simp [Memory.writeWords]
        _ = (m.write32 a v).read32 a := read32_congr _ _ _ hbytes
        _ = v := read32_write32 m a v hwf
    | succ k =>
      have hplace : a + 4 * BitVec.ofNat 32 (k + 1) = a + 4 + 4 * BitVec.ofNat 32 k := by
        rw [BitVec.ofNat_add]
        bv_omega
      rw [hplace]
      exact ih _ (a + 4) k hwf' (by omega) (Nat.lt_of_succ_lt_succ hk)

theorem storeWords_flat {s : State} (h : s.params.mem = .flat) (a : Word) (vs : List Word) :
    s.storeWords a vs = { s with mem := s.mem.writeWords a vs } := by
  unfold State.storeWords
  rw [memAs_flat h, busAs_flat h]

theorem storeWords_given {s : State} (h : s.params.mem = .given) (a : Word) (vs : List Word) :
    s.storeWords a vs = { s with bus := wordWrites s.bus a vs } := by
  unfold State.storeWords
  rw [memAs_given h, busAs_given h]

/-! ### The place of a register in a list (R196) -/

/-- In a filtered list, an element stands behind those of the filter that stood before it. -/
theorem getElem?_filter_of_take {α : Type} (p : α → Bool) (l : List α) (i : Nat) (hi : i < l.length) (hp : p l[i] = true) :
    (l.filter p)[((l.take i).filter p).length]? = some l[i] := by
  have hsplit : l.filter p = (l.take i).filter p ++ l[i] :: (l.drop (i + 1)).filter p := by
    rw [← List.filter_cons_of_pos hp, ← List.filter_append, ← List.drop_eq_getElem_cons hi, List.take_append_drop]
  rw [hsplit, List.getElem?_append_right (Nat.le_refl _), Nat.sub_self]
  rfl

/-- The registers of a list below register `i`, as `rank` counts them. -/
theorem rank_eq (l : BitVec 16) (i : Reg) : rank l i.val = ((allRegs.take i.val).filter (fun r => l.getLsbD r.val)).length := by
  have hrange : ∀ i : Reg, List.range i.val = (allRegs.take i.val).map Fin.val := by decide
  unfold rank
  rw [hrange, List.filter_map, List.length_map]
  rfl

theorem listRegs_getElem?_rank {l : BitVec 16} {i : Reg} (h : l.getLsbD i.val = true) : (listRegs l)[rank l i.val]? = some i := by
  have hget : ∀ i : Reg, allRegs[i.val]'i.isLt = i := by decide
  have hplace := getElem?_filter_of_take (fun r : Reg => l.getLsbD r.val) allRegs i.val i.isLt (by rw [hget]; exact h)
  rw [hget] at hplace
  rw [rank_eq]
  exact hplace

/-- A register of a list is the first of the list if its rank is 0, and only then. -/
theorem head?_listRegs {l : BitVec 16} {i : Reg} (h : l.getLsbD i.val = true) : (listRegs l).head? = some i ↔ rank l i.val = 0 := by
  have hplace := listRegs_getElem?_rank h
  rw [List.head?_eq_getElem?]
  constructor
  · intro hhead
    have hlt : 0 < (listRegs l).length := (List.getElem?_eq_some_iff.mp hhead).1
    have hnodup : (listRegs l).Nodup := List.Nodup.filter _ (by decide)
    exact ((List.getElem?_inj hlt hnodup).mp (hhead.trans hplace.symm)).symm
  · intro hrank
    rwa [hrank] at hplace

theorem blockRegs_of_ne {a : Mode4} (h : a.list ≠ 0) : blockRegs a = listRegs a.list := if_neg h

theorem blockRegs_of_empty {a : Mode4} (h : a.list = 0) : blockRegs a = [Reg.pc] := if_pos h

theorem list_ne_zero {l : BitVec 16} {i : Nat} (h : l.getLsbD i = true) : l ≠ 0 := by
  rintro rfl
  simp at h

theorem blockRegs_length_le (a : Mode4) : (blockRegs a).length ≤ 16 := by
  unfold blockRegs
  split
  · decide
  · exact List.length_filter_le _ allRegs

/-! ### The checks and the values of STM -/

theorem stmChecks_none {a : Mode4} (h : regularStm a) : firstReason (stmChecks a) = none := by
  obtain ⟨hlist, hpc, hsw, hfirst⟩ := h
  have hbase : (a.w && (listRegs a.list).contains a.n && (listRegs a.list).head? != some a.n) = false := by
    rw [Bool.eq_false_iff]
    simp only [Ne, Bool.and_eq_true, List.contains_iff_mem, mem_listRegs, bne_iff_ne]
    rintro ⟨⟨hw, hmem⟩, hhead⟩
    exact hhead ((head?_listRegs hmem).mpr (hfirst hw hmem))
  have hsw' : (a.s && a.w) = false := by simpa using hsw
  have hlist' : (a.list == 0) = false := by simpa using hlist
  have hpc' : (a.n == Reg.pc) = false := by simpa using hpc
  simp only [stmChecks, firstReason_cons, firstReason_nil, hlist', hpc', hsw', hbase, Bool.false_eq_true, if_false]

theorem storedValue_pc (a : Mode4) (wbAddr : Word) (s : State) :
    storedValue a wbAddr s Reg.pc = s.pc + s.params.pcStoreExtra.bytes := rfl

/-- What STM stores for a register of its list other than r15 (R370). -/
theorem storedValue_of_lt {a : Mode4} {i : Reg} (hmem : a.list.getLsbD i.val = true) (h : i.val < 15) (wbAddr : Word) (s : State) :
    storedValue a wbAddr s i
      = if a.s = true then s.regs.get (s.userCellOf ⟨i.val, h⟩)
        else if i = a.n ∧ a.w = true ∧ rank a.list i.val ≠ 0 then wbAddr
        else s.reg i := by
  have hpc : i ≠ Reg.pc := fun e => by rw [e] at h; exact absurd h (by decide)
  have huser : s.userReg i = s.regs.get (s.userCellOf ⟨i.val, h⟩) := dif_pos h
  have hhead : ((blockRegs a).head? != some i) = decide (rank a.list i.val ≠ 0) := by
    rw [blockRegs_of_ne (list_ne_zero hmem), Bool.eq_iff_iff, bne_iff_ne, decide_eq_true_iff]
    exact not_congr (head?_listRegs hmem)
  rw [storedValue, if_neg hpc, huser, hhead]
  simp only [Bool.and_eq_true, decide_eq_true_eq, and_assoc]

/-- The words that STM stores, in ascending order of their registers (R370). -/
def stmWords (a : Mode4) (wbAddr : Word) (s : State) : List Word := (blockRegs a).map (storedValue a wbAddr s)

theorem execStm_pass {a : Mode4} {s : State} (hreg : s.params.unpred = .compute ∨ regularStm a)
    (hstart : s.params.misalign = .arm7tdmi ∨ (blockStart a (s.reg a.n)).extractLsb' 0 2 = 0) :
    execStm a s = .next (blockWriteBack a (blockWbAddr a (s.reg a.n))
      (s.storeWords (alignWord (blockStart a (s.reg a.n))) (stmWords a (blockWbAddr a (s.reg a.n)) s))) :=
  (guardUnpred_pass _ (hreg.imp_right stmChecks_none)).trans (guardAligned_pass _ _ _ _ (hstart.imp_right misaligned_word))

theorem stmWords_length (a : Mode4) (wbAddr : Word) (s : State) : (stmWords a wbAddr s).length = (blockRegs a).length :=
  List.length_map _

theorem stmWords_getElem?_rank {a : Mode4} {i : Reg} (h : a.list.getLsbD i.val = true) (wbAddr : Word) (s : State) :
    (stmWords a wbAddr s)[rank a.list i.val]? = some (storedValue a wbAddr s i) := by
  rw [stmWords, List.getElem?_map, blockRegs_of_ne (list_ne_zero h), listRegs_getElem?_rank h, Option.map_some]

theorem stmWords_of_empty {a : Mode4} (h : a.list = 0) (wbAddr : Word) (s : State) :
    stmWords a wbAddr s = [s.pc + s.params.pcStoreExtra.bytes] := by
  rw [stmWords, blockRegs_of_empty h, List.map_singleton, storedValue_pc]

/-- Settles O51: `stmWords`, each at 4 times the rank of its register, then the write-back. -/
theorem storeMultiple : Obligations.StoreMultiple := by
  intro c a s hwf hreg wbAddr start pcValue value hstart place
  have hplace : ∀ i : Reg, a.list.getLsbD i.val = true → (stmWords a wbAddr s)[rank a.list i.val]? = some (value i) := by
    intro i hi
    rw [stmWords_getElem?_rank hi]
    by_cases h : i.val < 15
    · rw [show value i = _ from dif_pos h, storedValue_of_lt hi h wbAddr s]
    · have hpc : i = Reg.pc := by_contra fun hne => h (lt_of_ne_pc hne)
      rw [hpc, storedValue_pc]
      rfl
  have hempty : a.list = 0 → stmWords a wbAddr s = [pcValue] := fun h => stmWords_of_empty h wbAddr s
  refine ⟨s.storeWords (alignWord start) (stmWords a wbAddr s), execStm_pass hreg hstart, fun hm => ?_, fun hm => ?_⟩
  · rw [storeWords_flat hm]
    refine ⟨rfl, fun i hi => ?_, fun h => ?_⟩
    · obtain ⟨hk, hget⟩ := List.getElem?_eq_some_iff.mp (hplace i hi)
      have hfits : 4 * (stmWords a wbAddr s).length ≤ 2 ^ 32 := by
        have := blockRegs_length_le a
        rw [stmWords_length]
        omega
      exact (read32_writeWords _ s.mem (alignWord start) _ hwf hfits hk).trans hget
    · rw [hempty h]
      exact read32_write32 s.mem (alignWord start) pcValue hwf
  · rw [storeWords_given hm]
    refine ⟨(stmWords a wbAddr s).mapIdx fun k v => .write .word (alignWord start + 4 * BitVec.ofNat 32 k) v, rfl, fun h => ?_,
      fun i hi => ?_, fun h => ?_⟩
    · rw [List.length_mapIdx, stmWords_length, blockRegs_of_ne h, listRegs_length]
    · rw [List.getElem?_mapIdx, hplace i hi]
      rfl
    · rw [hempty h]
      simp [alignWord]

end Sys2Proof.Proofs
end

section
/-! The halts (O17), the laws of memory (O26), and the bytes of memory that an instruction leaves alone (O20). -/

namespace Sys2Proof.Proofs

open Sys2Proof Sys2Proof.Machine Sys2Proof.Laws

/-! ### Halts (R409, R410) -/

/-- A halt is one of the four of R409 and R430, each with the parameter that asks for it. -/
theorem Answers.halts {i : Instr} {s : State} {f : Fault} (h : Answers i s (.fault f)) :
    (∃ reason, f = .unpredictable reason (s.pc - 8) ∧ s.params.unpred = .fault)
      ∨ (∃ addr n, f = .misalignedAccess addr n (s.pc - 8) ∧ s.params.misalign = .fault ∧ Machine.misaligned n addr = true)
      ∨ (∃ c bits, i = .undefined c bits ∧ f = .undefinedInstruction (c.bits ++ bits) (s.pc - 8)
          ∧ s.params.undefEntry = .absent)
      ∨ (∃ c comment, i = .swi c comment ∧ f = .softwareInterrupt comment (s.pc - 8) ∧ s.params.swiEntry = .absent) := by
  cases h with
  | unpredictable r hp => exact .inl ⟨r, rfl, hp⟩
  | misaligned a n hp ha => exact .inr (.inl ⟨a, n, rfl, hp, ha⟩)
  | noUndefEntry c bits hi hp => exact .inr (.inr (.inl ⟨c, bits, hi, rfl, hp⟩))
  | noSwiEntry c comment hi hp => exact .inr (.inr (.inr ⟨c, comment, hi, rfl, hp⟩))

theorem stepReport_of_fault {s : State} {f : Fault} (h : step s = .fault f) :
    stepReport s = some ⟨stepKind s, .halts f, haltedState s⟩ := by
  have hstep : stepState s = .fault f := h
  simp only [stepReport, hstep]

theorem stepKind_executed {s : State} (hc : s.counter = 0) (hpass : s.passes (decodeWord s.decodeSlot).cond = true) :
    stepKind s = .executed := by
  simp only [stepKind, hc, hpass, if_true]

/-- Settles O17: `exec_answers` lists the halts of an instruction, and a step halts only where its instruction does, on the shifted window. -/
theorem haltsAreAskedForByParameters : Obligations.HaltsAreAskedForByParameters := by
  refine ⟨fun i s f h => (h ▸ exec_answers i s).halts, fun s f h => ?_⟩
  obtain ⟨-, hc, hpass, -⟩ := step_fault h
  refine ⟨hc, ?_⟩
  rw [stepReport_of_fault h, stepKind_executed hc hpass]
  rfl

/-! ### Memory (R63, R64, R65) -/

/-- The upper halfword of a word written (R64). -/
theorem read16_write32_upper (m : Memory) (a v : Word) (h : m.wf) : (m.write32 a v).read16 (a + 2) = v.extractLsb' 16 16 := by
  obtain ⟨-, -, h2, h3⟩ := read8_write32 m a v h
  have haddr : a + 2 + 1 = a + 3 := by bv_omega
  rw [Memory.read16, haddr, h2, h3]
  exact BitVec.extractLsb'_append_extractLsb'_eq_extractLsb' rfl

theorem read32_write64_upper (m : Memory) (a : Word) (d : BitVec 64) (h : m.wf) :
    (m.write64 a d).read32 (a + 4) = d.extractLsb' 32 32 :=
  read32_write32 _ _ _ (wf_write32 m a _ h)

/-- The upper word of a doubleword is written beside the lower one. -/
theorem read32_write64_lower (m : Memory) (a : Word) (d : BitVec 64) (h : m.wf) :
    (m.write64 a d).read32 a = d.extractLsb' 0 32 := by
  rw [Memory.write64, ← read32_write32 m a (d.extractLsb' 0 32) h]
  exact read32_congr _ _ _ fun k hk => by
    rw [read32_write32 m a _ h]
    rcases hk with rfl | rfl | rfl | rfl <;> exact read8_write32_ne _ _ _ _ (by bv_omega) (by bv_omega) (by bv_omega) (by bv_omega)

theorem read64_write64 (m : Memory) (a : Word) (d : BitVec 64) (h : m.wf) : (m.write64 a d).read64 a = d := by
  rw [Memory.read64, read32_write64_lower m a d h, read32_write64_upper m a d h]
  exact (BitVec.extractLsb'_append_extractLsb'_eq_extractLsb' (by decide)).trans BitVec.extractLsb'_eq_self

theorem load8_given {s : State} (h : s.params.mem = .given) (a : Word) : s.load8 a = (s.answer (.read .byte a)).setWidth 8 := by
  unfold State.load8; rw [h]

theorem load16_given {s : State} (h : s.params.mem = .given) (a : Word) : s.load16 a = (s.answer (.read .half a)).setWidth 16 := by
  unfold State.load16; rw [h]

/-- Settles O26: the laws of the default memory, and each access of a state under either memory. -/
theorem memoryIsLittleEndian : Obligations.MemoryIsLittleEndian := by
  intro m a b h v d hwf
  obtain ⟨hw0, hw1, hw2, hw3⟩ := read8_write32 m a v hwf
  obtain ⟨hh0, hh1⟩ := read8_write16 m a h hwf
  refine ⟨read32_write32 m a v hwf, hw0, hw1, hw2, hw3, read16_write32_upper m a v hwf, read64_write64 m a d hwf,
    read32_write64_lower m a d hwf, read32_write64_upper m a d hwf, read8_write32_ne m a b v, wf_write32 m a v hwf,
    wf_write64 m a d hwf, read16_write16 m a h hwf, hh0, hh1, read8_write16_ne m a b h, wf_write16 m a h hwf,
    fun s y x => ⟨fun hm => ?_, fun hm => ?_, load64_eq s a, rfl, store64_eq s a d⟩⟩
  · exact ⟨load8_flat hm a, load16_flat hm a, load32_flat hm a, ask_flat hm x, put_flat hm _ _, put_flat hm _ _, put_flat hm _ _⟩
  · exact ⟨load8_given hm a, load16_given hm a, load32_given hm a, ask_given hm x, put_given hm _ _, put_given hm _ _,
      put_given hm _ _⟩

/-! ### The bytes an instruction leaves alone -/

/-- From `s` to `t`, every byte of the default memory outside `bs` stays. -/
def BytesKept (bs : List Word) (s t : State) : Prop := ∀ a, a ∉ bs → t.mem.read8 a = s.mem.read8 a

theorem bytesKept_of_mem {s t : State} (h : t.mem = s.mem) (bs : List Word) : BytesKept bs s t := fun a _ => by rw [h]

theorem BytesKept.of_mem {bs : List Word} {s t u : State} (h : BytesKept bs s t) (hu : u.mem = t.mem) : BytesKept bs s u :=
  fun a ha => by rw [hu]; exact h a ha

/-- A write of the memory, whichever memory there is. -/
theorem bytesKept_memAs {bs : List Word} {s t : State} {m : Memory} (ht : t.mem = s.memAs m)
    (h : ∀ a, a ∉ bs → m.read8 a = s.mem.read8 a) : BytesKept bs s t := by
  intro a ha
  rw [ht]
  rcases memAs_cases s m with e | e <;> rw [e]
  exact h a ha

/-- A byte outside the `n` from `a` up is `n` or more above `a`, counted modulo 2^32. -/
theorem le_of_notMem_bytesFrom {a b : Word} {n : Nat} (h : b ∉ bytesFrom a n) : n ≤ (b - a).toNat := by
  by_contra hlt
  refine h (List.mem_map.mpr ⟨(b - a).toNat, List.mem_range.mpr (Nat.lt_of_not_le hlt), ?_⟩)
  rw [BitVec.ofNat_toNat, BitVec.setWidth_eq]
  bv_omega

theorem bytesKept_store8 (s : State) (a : Word) (v : Byte) : BytesKept (bytesFrom a 1) s (s.store8 a v) :=
  bytesKept_memAs rfl fun b hb => by
    have hdist := le_of_notMem_bytesFrom hb
    exact read8_write8_ne s.mem a b v (by bv_omega)

theorem bytesKept_store16 (s : State) (a : Word) (v : BitVec 16) : BytesKept (bytesFrom a 2) s (s.store16 a v) :=
  bytesKept_memAs rfl fun b hb => by
    have hdist := le_of_notMem_bytesFrom hb
    exact read8_write16_ne s.mem a b v (by bv_omega) (by bv_omega)

theorem bytesKept_storeWords (s : State) (a : Word) (vs : List Word) : BytesKept (bytesFrom a (4 * vs.length)) s (s.storeWords a vs) :=
  bytesKept_memAs rfl fun b hb => read8_writeWords_ne vs s.mem a b (le_of_notMem_bytesFrom hb)

/-- A word store is a store of words, of one word. -/
theorem bytesKept_store32 (s : State) (a v : Word) : BytesKept (bytesFrom a 4) s (s.store32 a v) :=
  bytesKept_storeWords s a [v]

theorem bytesKept_store64 (s : State) (a : Word) (v : BitVec 64) : BytesKept (bytesFrom a 8) s (s.store64 a v) :=
  bytesKept_storeWords s a [v.extractLsb' 0 32, v.extractLsb' 32 32]

section
variable {s t u : State}

theorem BytesKept.storeWith {bs cs w n ea} (hu : BytesKept bs s u) (h : storeWith cs w n ea u s = .next t) : BytesKept bs s t := by
  rw [storeWith_next h]
  exact hu.of_mem (writeBack_mem u n ea)

theorem bytesKept_stm {a} (h : execStm a s = .next t) :
    BytesKept (bytesFrom (alignWord (blockStart a (s.reg a.n))) (4 * (blockRegs a).length)) s t := by
  rw [execStm_next h]
  have hstore := bytesKept_storeWords s (alignWord (blockStart a (s.reg a.n))) (stmWords a (blockWbAddr a (s.reg a.n)) s)
  rw [stmWords_length] at hstore
  exact hstore.of_mem (blockWriteBack_mem _ _ _)

theorem mem_dpFlags {op n d o} (h : dpFlags op n d o s = .next t) : t.mem = s.mem := by
  rcases dpFlags_next h with ⟨-, e⟩ | ⟨-, e⟩ <;> rw [e]
  · exact returnFromException_mem s _
  · exact setReg_mem _ d _

theorem setPair_mem (s : State) (dLo dHi : Reg) (r : BitVec 64) : (s.setPair dLo dHi r).mem = s.mem :=
  (setReg_mem _ dHi _).trans (setReg_mem s dLo _)

theorem mem_mrsSpsr {d} (h : execMrsSpsr d s = .next t) : t.mem = s.mem := by
  have hnext := guardUnpred_next h
  split at hnext <;> cases hnext <;> exact setReg_mem _ d _

theorem mem_ldm {a} (h : execLdm a s = .next t) : t.mem = s.mem := by
  rw [execLdm_next h]
  obtain ⟨-, -, -, -, hmem, -⟩ := keptC_foldl a _ (blockWriteBack a (blockWbAddr a (s.reg a.n)) (s.askWords _ _))
  rw [hmem, blockWriteBack_mem, askWords_mem]

theorem mem_checked {cs} (h : guardUnpred cs s (.next u) = .next t) (hu : u.mem = s.mem) : t.mem = s.mem := by
  cases guardUnpred_next h
  exact hu

end

/-- Every instruction: its stores, or none. -/
theorem exec_bytesKept (i : Instr) (s t : State) (h : exec i s = .next t) : BytesKept (storedBytes i s) s t := by
  cases i
  case strh => exact (bytesKept_store16 s _ _).storeWith h
  case strd => exact (bytesKept_store64 s _ _).storeWith h
  case str | strt => exact (bytesKept_store32 s _ _).storeWith h
  case strb | strbt => exact (bytesKept_store8 s _ _).storeWith h
  case stm => exact bytesKept_stm h
  case swp =>
    cases guardAligned_next (guardUnpred_next h)
    exact (bytesKept_store32 (s.ask _) _ _).of_mem (setReg_mem _ _ _)
  case swpb =>
    cases guardUnpred_next h
    exact (bytesKept_store8 (s.ask _) _ _).of_mem (setReg_mem _ _ _)
  all_goals apply bytesKept_of_mem
  case ldr | ldrb | ldrt | ldrbt | ldrh | ldrsb | ldrsh =>
    rw [loadWith_next h, setReg_mem, writeBack_mem, ask_mem]
  case ldrd =>
    cases guardAligned_next (guardUnpred_next h)
    rw [setReg_mem, setReg_mem, writeBack_mem, ask64_mem]
  case ldm => exact mem_ldm h
  case ands | eors | subs | rsbs | adds | adcs | sbcs | rscs | orrs | movs | bics | mvns => exact mem_dpFlags h
  case and | eor | sub | rsb | add | adc | sbc | rsc | orr | mov | bic | mvn => exact mem_checked h (setReg_mem _ _ _)
  case mul | mla | muls | mlas | mrsCpsr => exact mem_checked h (setReg_mem _ _ _)
  case umull | umlal | smull | smlal | umulls | umlals | smulls | smlals => exact mem_checked h (setPair_mem _ _ _ _)
  case tst | teq | cmp | cmn | msrCpsr => exact mem_checked h rfl
  case msrSpsr => exact mem_checked h (writeSpsr_mem _ _ _)
  case mrsSpsr => exact mem_mrsSpsr h
  case b => cases h; rfl
  case bl => cases h; exact setReg_mem _ _ _
  case bx =>
    rcases execBx_next h with ⟨-, e⟩ | ⟨-, e⟩ <;> rw [e]
    · exact exitThumb_mem s _
    · exact writePc_mem s _
  case swi =>
    rcases execSwi_next h with ⟨-, e⟩ | ⟨-, e⟩ <;> rw [e]
    · exact takeException_mem _ _ _ _ _
    · exact enter_mem _ _
  case undefined =>
    rcases execUndefined_next h with ⟨-, e⟩ | ⟨-, e⟩ <;> rw [e]
    · exact takeException_mem _ _ _ _ _
    · exact enter_mem _ _

/-- Settles O20: `exec_bytesKept`, one byte of it. -/
theorem memoryFrame : Obligations.MemoryFrame := fun i s t a h ha => exec_bytesKept i s t h a ha

end Sys2Proof.Proofs
end

section
/-! The loads (O43, O46, O47) and the swaps (O50), and the transfers that halt on a misaligned address (O49). -/

namespace Sys2Proof.Proofs

open Sys2Proof Sys2Proof.Machine Sys2Proof.Laws

/-! ### The checks of the extended transfers, the swaps and LDM -/

/-- Operands with none of the cases of R302 pass the checks: `hitsBase` is their test of a base that the transfer loads or stores, and
`dword` marks LDRD and STRD, whose Rd is even and not r14. -/
theorem extendedChecks_none {hitsBase dword : Bool} {d : Reg} {a : Mode3} (h : regular3 d a) (r : UnpredReason)
    (hhits : a.ix ≠ .offset → hitsBase = false) (hpair : dword = true → d.val % 2 = 0 ∧ d ≠ Reg.lr) :
    firstReason (extendedChecks r hitsBase dword d a) = none := by
  obtain ⟨hbase, hix, hoff, hd⟩ := h
  have hpc : (index3Wb a.ix && a.n == Reg.pc) = false := by
    simpa [index3Wb_iff] using fun hwb => (hbase hwb).1
  have hpostW : (a.ix == .postW) = false := by simpa using hix
  have hoffPc : offset3IsPc a.off = false := by rwa [Bool.eq_false_iff, Ne, offset3IsPc_iff]
  have hn : (index3Wb a.ix && hitsBase) = false := by simpa [index3Wb_iff] using hhits
  have hdpc : (d == Reg.pc) = false := by simpa using hd
  have hodd : (dword && d.val % 2 == 1 || dword && d == 14) = false := by
    cases dword with
    | false => rfl
    | true =>
      obtain ⟨heven, hlr⟩ := hpair rfl
      have hlr' : (d == 14) = false := by simpa using hlr
      rw [heven, hlr']
      rfl
  simp only [extendedChecks, firstReason_cons, firstReason_nil, hpc, hpostW, hoffPc, hn, hdpc, hodd, Bool.false_eq_true, if_false]

/-- A base that is written back is not Rd. -/
theorem base_ne_of_regular3 {d : Reg} {a : Mode3} (h : regular3 d a) (hix : a.ix ≠ .offset) : a.n ≠ d := by
  obtain ⟨hbase, -⟩ := h
  exact (hbase hix).2

theorem extendedChecks_none_single {d : Reg} {a : Mode3} (h : regular3 d a) (r : UnpredReason) :
    firstReason (extendedChecks r (a.n == d) false d a) = none :=
  extendedChecks_none h r (fun hix => by simpa using base_ne_of_regular3 h hix) nofun

theorem extendedChecks_none_ldrd {d : Reg} {a : Mode3} (h : regularPair true d a) (r : UnpredReason) :
    firstReason (extendedChecks r (a.n == d || a.n == pairReg d) true d a) = none := by
  obtain ⟨hreg, heven, hlr, hnext⟩ := h
  refine extendedChecks_none hreg r (fun hix => ?_) fun _ => ⟨heven, hlr⟩
  simpa [pairReg] using ⟨base_ne_of_regular3 hreg hix, hnext rfl hix⟩

theorem extendedChecks_none_strd {d : Reg} {a : Mode3} (h : regularPair false d a) (r : UnpredReason) :
    firstReason (extendedChecks r (a.n == d) true d a) = none := by
  obtain ⟨hreg, heven, hlr, -⟩ := h
  exact extendedChecks_none hreg r (fun hix => by simpa using base_ne_of_regular3 hreg hix) fun _ => ⟨heven, hlr⟩

theorem swapChecks_none {d m n : Reg} (h : regularSwap d m n) : firstReason (swapChecks d m n) = none := by
  obtain ⟨hpc, hm, hd⟩ := h
  simp only [List.mem_cons, List.not_mem_nil, or_false, not_or] at hpc
  obtain ⟨hnpc, hdpc, hmpc⟩ := hpc
  simp [swapChecks, firstReason_cons, firstReason_nil, hm, hd, Ne.symm hnpc, Ne.symm hdpc, Ne.symm hmpc]

theorem ldmChecks_none {a : Mode4} {s : State} (h : regularLdm a s) : firstReason (ldmChecks a s) = none := by
  obtain ⟨hlist, hpc, hsw, hspsr, hbase⟩ := h
  have hlist' : (a.list == 0) = false := by simpa using hlist
  have hpc' : (a.n == Reg.pc) = false := by simpa using hpc
  have hsw' : (a.s && a.w && !listHasPc a) = false := by simpa [listHasPc] using hsw
  have hspsr' : (a.s && listHasPc a && !s.hasSpsr) = false := by simpa [listHasPc, hasSpsr_eq, Option.isSome_iff_ne_none] using hspsr
  have hbase' : (a.w && (listRegs a.list).contains a.n) = false := by simpa [mem_listRegs] using hbase
  simp only [ldmChecks, firstReason_cons, firstReason_nil, hlist', hpc', hsw', hspsr', hbase', Bool.false_eq_true, if_false]

/-! ### The loads of a word and of a byte (R333, R335, R337) -/

theorem loadWith_pass {cs : List (UnpredReason × Bool)} {w : Width} {n d : Reg} {ea : EffAddr} {v : Word} {x : Access} {s : State}
    (hcs : s.params.unpred = .compute ∨ firstReason cs = none)
    (hw : s.params.misalign = .arm7tdmi ∨ misaligned w ea.addr = false) :
    loadWith cs w n d ea v x s = .next (((s.ask x).writeBack n ea).setReg d v) :=
  transferWith_pass hcs hw

theorem exec_ldrt {a : Mode2} (h : a.ix = .post) (c : Cond) (d : Reg) (s : State) :
    exec (.ldrt c d ⟨a.up, a.n, a.off⟩) s = exec (.ldr c d a) s := by
  show loadWord d (tMode2 ⟨a.up, a.n, a.off⟩) s = loadWord d a s
  rw [tMode2_eq h]

theorem exec_ldrbt {a : Mode2} (h : a.ix = .post) (c : Cond) (d : Reg) (s : State) :
    exec (.ldrbt c d ⟨a.up, a.n, a.off⟩) s = exec (.ldrb c d a) s := by
  show loadByte d (tMode2 ⟨a.up, a.n, a.off⟩) s = loadByte d a s
  rw [tMode2_eq h]

/-- Settles O43: the checks pass, and the read, the write-back and the load are those of `loadWith`. -/
theorem singleLoads : Obligations.SingleLoads := by
  intro c d a s ea low aligned back word byte
  refine ⟨fun hreg hlow => ?_, fun hreg => ?_⟩
  · have haligned : low = 0 → misaligned .word ea.addr = false := fun h => misaligned_word (BitVec.eq_of_toNat_eq h)
    have hldr : exec (.ldr c d a) s = .next word :=
      loadWith_pass (hreg.imp_right fun h => singleChecks_none h _) (hlow.imp_right haligned)
    exact ⟨hldr, fun hix => (exec_ldrt hix c d s).trans hldr⟩
  · have hldrb : exec (.ldrb c d a) s = .next byte :=
      loadWith_pass (hreg.imp_right fun h => singleChecks_none h _) (.inr rfl)
    exact ⟨hldrb, fun hix => (exec_ldrbt hix c d s).trans hldrb⟩

/-! ### The halfword and signed transfers (R303-R306) -/

theorem alignHalf_of_even {a : Word} (h : a.getLsbD 0 = false) : alignHalf a = a := by
  have hmask : ∀ k : Fin 32, k.val ≠ 0 → (0xFFFFFFFE : Word).getLsbD k.val = true := by decide
  refine BitVec.eq_of_getLsbD_eq fun k hk => ?_
  rw [alignHalf, BitVec.getLsbD_and]
  by_cases hk0 : k = 0
  · rw [hk0, h, Bool.false_and]
  · rw [hmask ⟨k, hk⟩ hk0, Bool.and_true]

/-- A zero-extended halfword rotated by 8: its low byte comes to the top (R304). -/
theorem ror_halfword (h : BitVec 16) : ror (h.setWidth 32) 8 = h.extractLsb' 0 8 ++ 0#16 ++ h.extractLsb' 8 8 := by
  refine BitVec.eq_of_getLsbD_eq fun k hk => ?_
  rw [ror, rotateRight_bit _ _ _ hk, BitVec.getLsbD_setWidth, BitVec.getLsbD_append, BitVec.getLsbD_append]
  simp only [BitVec.getLsbD_extractLsb', BitVec.getLsbD_zero, show (k + 8) % 32 < 32 by omega, decide_true, Bool.true_and]
  by_cases hlow : k < 8
  · rw [if_pos hlow, show (k + 8) % 32 = 8 + k by omega, decide_eq_true hlow, Bool.true_and]
  rw [if_neg hlow]
  by_cases hmid : k - 8 < 16
  · rw [if_pos hmid]
    exact BitVec.getLsbD_of_ge _ _ (by omega)
  · rw [if_neg hmid, show (k + 8) % 32 = 0 + (k - 8 - 16) by omega, decide_eq_true (show k - 8 - 16 < 8 by omega), Bool.true_and]

section
variable {s : State} {a : Word}

theorem loadedHalf_even (h : a.getLsbD 0 = false) : s.loadedHalf a = (s.load16 (alignHalf a)).setWidth 32 := by
  simp only [State.loadedHalf, h, Bool.false_eq_true, if_false]

theorem loadedHalf_odd (h : a.getLsbD 0 = true) :
    s.loadedHalf a = (s.load16 (alignHalf a)).extractLsb' 0 8 ++ 0#16 ++ (s.load16 (alignHalf a)).extractLsb' 8 8 := by
  simp only [State.loadedHalf, h, if_true]
  exact ror_halfword _

theorem loadedSignedHalf_even (h : a.getLsbD 0 = false) : s.loadedSignedHalf a = (s.load16 (alignHalf a)).signExtend 32 := by
  simp only [State.loadedSignedHalf, h, Bool.false_eq_true, if_false, alignHalf_of_even h]

theorem signedHalfRead_even (h : a.getLsbD 0 = false) : signedHalfRead a = .read .half (alignHalf a) := by
  simp only [signedHalfRead, h, Bool.false_eq_true, if_false, alignHalf_of_even h]

theorem loadedSignedHalf_odd (h : a.getLsbD 0 = true) : s.loadedSignedHalf a = (s.load8 a).signExtend 32 := by
  simp only [State.loadedSignedHalf, h, if_true, State.loadedSignedByte]

theorem signedHalfRead_odd (h : a.getLsbD 0 = true) : signedHalfRead a = .read .byte a := by
  simp only [signedHalfRead, h, if_true]

end

/-- A load of one register that passes its checks. -/
theorem loadExtended_pass {w : Width} {v : State → Word → Word} {x : Word → Access} {d : Reg} {a : Mode3} {s : State}
    (hreg : s.params.unpred = .compute ∨ regular3 d a)
    (hw : s.params.misalign = .arm7tdmi ∨ misaligned w (resolveMode3 a s).addr = false) :
    loadExtended w v x d a s = .next (((s.ask (x (resolveMode3 a s).addr)).writeBack a.n (resolveMode3 a s)).setReg d
      (v s (resolveMode3 a s).addr)) :=
  loadWith_pass (hreg.imp_right fun h => extendedChecks_none_single h _) hw

/-- Settles O46: `loadExtended_pass`, with the value and the access at an even and at an odd address. -/
theorem halfwordAndSignedTransfers : Obligations.HalfwordAndSignedTransfers := by
  intro c d a s hreg ea odd aligned half byte value back loaded
  have hldrh (hw : s.params.misalign = .arm7tdmi ∨ odd = false) :
      exec (.ldrh c d a) s = .next (loaded (.read .half aligned) (s.loadedHalf ea.addr)) := loadExtended_pass hreg hw
  have hldrsh (hw : s.params.misalign = .arm7tdmi ∨ odd = false) :
      exec (.ldrsh c d a) s = .next (loaded (signedHalfRead ea.addr) (s.loadedSignedHalf ea.addr)) := loadExtended_pass hreg hw
  refine ⟨loadExtended_pass hreg (.inr rfl), fun heven => ⟨?_, ?_⟩, fun hodd hm => ⟨?_, ?_⟩, fun hw => ?_⟩
  · rw [hldrh (.inr heven), loadedHalf_even heven]
    rfl
  · rw [hldrsh (.inr heven), loadedSignedHalf_even heven, signedHalfRead_even heven]
    rfl
  · rw [hldrh (.inl hm), loadedHalf_odd hodd]
    rfl
  · rw [hldrsh (.inl hm), loadedSignedHalf_odd hodd, signedHalfRead_odd hodd]
  · exact transferWith_pass (hreg.imp_right fun h => extendedChecks_none_single h _) hw.symm

/-! ### The doubleword transfers (R307, R308) -/

section
variable (s : State) (a : Word)

theorem load64_low : (s.load64 a).extractLsb' 0 32 = s.load32 a := by
  rw [load64_eq]
  exact BitVec.extractLsb'_append_eq_right

theorem load64_high : (s.load64 a).extractLsb' 32 32 = (s.ask (.read .word a)).load32 (a + 4) := by
  rw [load64_eq]
  exact BitVec.extractLsb'_append_eq_left

/-- Two words stored as a doubleword, the low half first. -/
theorem store64_append (hi lo : Word) : s.store64 a (hi ++ lo) = (s.store32 a lo).store32 (a + 4) hi := by
  rw [store64_eq, BitVec.extractLsb'_append_eq_right, BitVec.extractLsb'_append_eq_left]

end

/-- Settles O47: a doubleword is two words, the lower first. -/
theorem doublewordTransfers : Obligations.DoublewordTransfers := by
  intro c d a s ea addr value back haddr
  have hw : s.params.misalign = .arm7tdmi ∨ misaligned .dword ea.addr = false := haddr.imp_right misaligned_word
  refine ⟨fun hreg => ?_, fun hreg => ?_⟩
  · have hldrd : exec (.ldrd c d a) s = .next (((back (s.ask64 addr)).setReg d ((s.load64 addr).extractLsb' 0 32)).setReg (d + 1)
        ((s.load64 addr).extractLsb' 32 32)) :=
      (guardUnpred_pass _ (hreg.imp_right fun h => extendedChecks_none_ldrd h _)).trans (guardAligned_pass _ _ _ _ hw)
    rw [hldrd, load64_low, load64_high]
    rfl
  · have hstrd : exec (.strd c d a) s = .next (back (s.store64 addr (value (d + 1) ++ value d))) :=
      transferWith_pass (hreg.imp_right fun h => extendedChecks_none_strd h _) hw
    rw [hstrd, store64_append]

/-! ### The swaps (R340, R341) -/

/-- Settles O50: the checks pass, and the read, the write and the load of Rd are those of `execSwp` and `execSwpb`. -/
theorem swaps : Obligations.Swaps := by
  intro c d m n s hreg a low aligned
  have hcs : s.params.unpred = .compute ∨ firstReason (swapChecks d m n) = none := hreg.imp_right swapChecks_none
  have haligned : low = 0 → misaligned .word a = false := fun h => misaligned_word (BitVec.eq_of_toNat_eq h)
  exact ⟨fun hlow => (guardUnpred_pass _ hcs).trans (guardAligned_pass _ _ _ _ (hlow.imp_right haligned)), guardUnpred_pass _ hcs⟩

/-! ### Misaligned addresses (R67, R68) -/

theorem misaligned_word_of_ne {a : Word} (h : a.extractLsb' 0 2 ≠ 0) : misaligned .word a = true := by
  simpa [misaligned] using h

/-- The checks pass but for that of the address. -/
theorem guards_halt {cs : List (UnpredReason × Bool)} {w : Width} {ea : Word} {s : State} (k : Outcome)
    (hcs : s.params.unpred = .compute ∨ firstReason cs = none) (hm : s.params.misalign = .fault) (hw : misaligned w ea = true) :
    guardUnpred cs s (guardAligned w ea s k) = .fault (.misalignedAccess ea w (s.pc - 8)) :=
  (guardUnpred_pass _ hcs).trans (if_pos ⟨hm, hw⟩)

/-- Settles O49: each of the transfers checks its operands and then its address. -/
theorem misalignedTransfersHalt : Obligations.MisalignedTransfersHalt := by
  intro c d m n a2 a3 a4 s hm e2 e3 e4 goesOn halts
  refine ⟨fun h hreg => ?_, fun h hreg => ?_, fun h hreg => ?_, fun h hreg => ?_, fun h hreg => ?_, fun h hreg => ?_, fun h hreg => ?_⟩
  · have hw := misaligned_word_of_ne h
    have hldr : halts (.ldr c d a2) e2 .word := guards_halt _ (hreg.imp_right fun g => singleChecks_none g _) hm hw
    have hstr : halts (.str c d a2) e2 .word := guards_halt _ (hreg.imp_right fun g => singleChecks_none g _) hm hw
    exact ⟨hldr, hstr, fun hix => ⟨(exec_ldrt hix c d s).trans hldr, (exec_strt hix c d s).trans hstr⟩⟩
  · have hcs (r : UnpredReason) := hreg.imp_right fun g => extendedChecks_none_single g r
    exact ⟨guards_halt _ (hcs _) hm h, guards_halt _ (hcs _) hm h, guards_halt _ (hcs _) hm h⟩
  · exact guards_halt _ (hreg.imp_right fun g => extendedChecks_none_ldrd g _) hm (misaligned_word_of_ne h)
  · exact guards_halt _ (hreg.imp_right fun g => extendedChecks_none_strd g _) hm (misaligned_word_of_ne h)
  · exact guards_halt _ (hreg.imp_right swapChecks_none) hm (misaligned_word_of_ne h)
  · exact guards_halt _ (hreg.imp_right ldmChecks_none) hm (misaligned_word_of_ne h)
  · exact guards_halt _ (hreg.imp_right stmChecks_none) hm (misaligned_word_of_ne h)

end Sys2Proof.Proofs
end

section
/-! The encoding: every well-formed instruction is decoded from its word and its bytes (O1) and from each word that differs only in ignored
bits (O2); every word decodes to an instruction of its own cell (O3), UNDEFINED in the cells of R107's list only (O4); worked words (O5). -/

namespace Sys2Proof.Proofs

open Sys2Proof Sys2Proof.Machine Sys2Proof.Laws

/-! ### The fields of an encoded word

One lemma for each format: what the decoder's readers of the condition and of the operands find in its word. -/

@[simp] theorem reg_bits_toFin (r : Reg) : r.bits.toFin = r := rfl

/-- R93-R95. -/
theorem encodeDp_fields (c : Cond) (opc : BitVec 4) (s : Bool) (n d : Reg) (o : ShifterOperand) :
    (encodeDp c opc s n d o).extractLsb' 28 4 = c.bits ∧ regAt (encodeDp c opc s n d o) 16 = n
    ∧ regAt (encodeDp c opc s n d o) 12 = d ∧ shifterOperand o.resolver (encodeDp c opc s n d o) = o := by
  cases o with
  | imm rot imm8 =>
    simp (disch := omega) only [encodeDp, ShifterOperand.resolver, shifterOperand, regAt, extract_append_hi, extract_append_lo,
      extract_all, Nat.reduceSub, reg_bits_toFin, and_self]
  | shiftImm t amt m =>
    simp (disch := omega) only [encodeDp, ShifterOperand.resolver, shifterOperand, shiftAmount, regAt, extract_append_hi,
      extract_append_lo, extract_all, Nat.reduceSub, shiftImmField_amt, reg_bits_toFin, and_self]
  | shiftReg t rs m =>
    simp (disch := omega) only [encodeDp, ShifterOperand.resolver, shifterOperand, regAt, extract_append_hi, extract_append_lo,
      extract_all, Nat.reduceSub, reg_bits_toFin, and_self]

/-- R96, R97. -/
theorem encodeMul_fields (c : Cond) (row : BitVec 8) (hi lo s m : Reg) :
    (encodeMul c row hi lo s m).extractLsb' 28 4 = c.bits ∧ regAt (encodeMul c row hi lo s m) 16 = hi
    ∧ regAt (encodeMul c row hi lo s m) 12 = lo ∧ regAt (encodeMul c row hi lo s m) 8 = s
    ∧ regAt (encodeMul c row hi lo s m) 0 = m := by
  simp (disch := omega) only [encodeMul, regAt, extract_append_hi, extract_append_lo, extract_all, Nat.reduceSub, reg_bits_toFin,
    and_self]

/-- R98. -/
theorem encodeXt_fields (c : Cond) (l : Bool) (sh : BitVec 2) (d : Reg) (a : Mode3) :
    (encodeXt c l sh d a).extractLsb' 28 4 = c.bits ∧ regAt (encodeXt c l sh d a) 12 = d
    ∧ mode3 a.resolver (encodeXt c l sh d a) = a := by
  obtain ⟨ix, up, n, off⟩ := a
  cases off with
  | imm v =>
    have join : v.extractLsb' 4 4 ++ v.extractLsb' 0 4 = v :=
      (BitVec.extractLsb'_append_extractLsb'_eq_extractLsb' (Nat.zero_add 4).symm).trans (extract_all v)
    simp (disch := omega) only [encodeXt, Mode3.resolver, mode3, offset3, regAt, extract_append_hi, extract_append_lo, extract_all,
      Nat.reduceSub, reg_bits_toFin, cond_true, join, and_self]
  | reg m =>
    simp (disch := omega) only [encodeXt, Mode3.resolver, mode3, offset3, regAt, extract_append_hi, extract_append_lo, extract_all,
      Nat.reduceSub, reg_bits_toFin, cond_false, and_self]

/-- R100, for the plain transfers and the T forms. -/
theorem encodeSt_fields (c : Cond) (p byte w l : Bool) (d : Reg) (up : Bool) (n : Reg) (off : Offset2) :
    (encodeSt c p byte w l d up n off).extractLsb' 28 4 = c.bits ∧ regAt (encodeSt c p byte w l d up n off) 12 = d
    ∧ regAt (encodeSt c p byte w l d up n off) 16 = n ∧ offset2 off.kind (encodeSt c p byte w l d up n off) = off := by
  cases off with
  | imm v =>
    simp (disch := omega) only [encodeSt, Offset2.kind, offset2, regAt, extract_append_hi, extract_append_lo, extract_all, Nat.reduceSub,
      reg_bits_toFin, and_self]
  | reg t amt m =>
    simp (disch := omega) only [encodeSt, Offset2.kind, offset2, shiftAmount, regAt, extract_append_hi, extract_append_lo, extract_all,
      Nat.reduceSub, shiftImmField_amt, reg_bits_toFin, and_self]

/-- R99, MRS. -/
theorem encodeMrs_fields (c : Cond) (spsr : Bool) (d : Reg) :
    (encodeMrs c spsr d).extractLsb' 28 4 = c.bits ∧ regAt (encodeMrs c spsr d) 12 = d := by
  simp (disch := omega) only [encodeMrs, regAt, extract_append_hi, extract_append_lo, extract_all, Nat.reduceSub, reg_bits_toFin,
    and_self]

/-- R99, MSR. -/
theorem encodeMsr_fields (c : Cond) (spsr : Bool) (mask : BitVec 4) (o : PsrOperand) :
    (encodeMsr c spsr mask o).extractLsb' 28 4 = c.bits ∧ (encodeMsr c spsr mask o).extractLsb' 16 4 = mask
    ∧ psrOperand o.resolver (encodeMsr c spsr mask o) = o := by
  cases o with
  | reg m =>
    simp (disch := omega) only [encodeMsr, PsrOperand.resolver, psrOperand, regAt, extract_append_hi, extract_append_lo, extract_all,
      Nat.reduceSub, reg_bits_toFin, and_self]
  | imm rot imm8 =>
    simp (disch := omega) only [encodeMsr, PsrOperand.resolver, psrOperand, extract_append_hi, extract_append_lo, extract_all,
      Nat.reduceSub, and_self]

/-- R99, BX. -/
theorem encodeBx_fields (c : Cond) (m : Reg) :
    (encodeBx c m).extractLsb' 28 4 = c.bits ∧ regAt (encodeBx c m) 0 = m := by
  simp (disch := omega) only [encodeBx, regAt, extract_append_hi, extract_append_lo, extract_all, Nat.reduceSub, reg_bits_toFin,
    and_self]

/-- Bits 22 and 21 of a block transfer are its S and W. -/
theorem blkRow_sw (p up s w l : Bool) : (blkRow p up s w l).getLsbD 2 = s ∧ (blkRow p up s w l).getLsbD 1 = w := by
  cases p <;> cases up <;> cases s <;> cases w <;> cases l <;> decide

/-- R101. -/
theorem encodeBlk_fields (c : Cond) (l : Bool) (a : Mode4) :
    (encodeBlk c l a).extractLsb' 28 4 = c.bits ∧ mode4 (.m4 a.up a.before) (encodeBlk c l a) = a := by
  simp (disch := omega) only [encodeBlk, mode4, regAt, extract_append_hi, extract_append_lo, extract_all, Nat.reduceSub, Nat.reduceLT,
    BitVec.getLsbD_append, if_true, if_false, blkRow_sw, reg_bits_toFin, and_self]

/-- R102. -/
theorem encodeBr_fields (c : Cond) (op : BitVec 4) (f : BitVec 24) :
    (encodeBr c op f).extractLsb' 28 4 = c.bits ∧ (encodeBr c op f).extractLsb' 0 24 = f := by
  simp (disch := omega) only [encodeBr, extract_append_hi, extract_append_lo, extract_all, Nat.reduceSub, and_self]

/-- R107. -/
theorem undefined_fields (c : Cond) (bits : BitVec 28) :
    (c.bits ++ bits).extractLsb' 28 4 = c.bits ∧ (c.bits ++ bits).extractLsb' 0 28 = bits := by
  simp (disch := omega) only [extract_append_hi, extract_append_lo, extract_all, Nat.reduceSub, and_self]

/-! ### From a word back to its instruction -/

/-- The word of a well-formed instruction lands in the cell of that instruction. -/
theorem encode_cell : ∀ i : Instr, EncodedCell.Statement i
  | .and c n d o => EncodedCell.and c n d o
  | .ands c n d o => EncodedCell.ands c n d o
  | .eor c n d o => EncodedCell.eor c n d o
  | .eors c n d o => EncodedCell.eors c n d o
  | .sub c n d o => EncodedCell.sub c n d o
  | .subs c n d o => EncodedCell.subs c n d o
  | .rsb c n d o => EncodedCell.rsb c n d o
  | .rsbs c n d o => EncodedCell.rsbs c n d o
  | .add c n d o => EncodedCell.add c n d o
  | .adds c n d o => EncodedCell.adds c n d o
  | .adc c n d o => EncodedCell.adc c n d o
  | .adcs c n d o => EncodedCell.adcs c n d o
  | .sbc c n d o => EncodedCell.sbc c n d o
  | .sbcs c n d o => EncodedCell.sbcs c n d o
  | .rsc c n d o => EncodedCell.rsc c n d o
  | .rscs c n d o => EncodedCell.rscs c n d o
  | .tst c n o => EncodedCell.tst c n o
  | .teq c n o => EncodedCell.teq c n o
  | .cmp c n o => EncodedCell.cmp c n o
  | .cmn c n o => EncodedCell.cmn c n o
  | .orr c n d o => EncodedCell.orr c n d o
  | .orrs c n d o => EncodedCell.orrs c n d o
  | .mov c d o => EncodedCell.mov c d o
  | .movs c d o => EncodedCell.movs c d o
  | .bic c n d o => EncodedCell.bic c n d o
  | .bics c n d o => EncodedCell.bics c n d o
  | .mvn c d o => EncodedCell.mvn c d o
  | .mvns c d o => EncodedCell.mvns c d o
  | .mul c d m s => EncodedCell.mul c d m s
  | .muls c d m s => EncodedCell.muls c d m s
  | .mla c d m s acc => EncodedCell.mla c d m s acc
  | .mlas c d m s acc => EncodedCell.mlas c d m s acc
  | .umull c dLo dHi m s => EncodedCell.umull c dLo dHi m s
  | .umulls c dLo dHi m s => EncodedCell.umulls c dLo dHi m s
  | .umlal c dLo dHi m s => EncodedCell.umlal c dLo dHi m s
  | .umlals c dLo dHi m s => EncodedCell.umlals c dLo dHi m s
  | .smull c dLo dHi m s => EncodedCell.smull c dLo dHi m s
  | .smulls c dLo dHi m s => EncodedCell.smulls c dLo dHi m s
  | .smlal c dLo dHi m s => EncodedCell.smlal c dLo dHi m s
  | .smlals c dLo dHi m s => EncodedCell.smlals c dLo dHi m s
  | .strh c d a => EncodedCell.strh c d a
  | .ldrh c d a => EncodedCell.ldrh c d a
  | .ldrsb c d a => EncodedCell.ldrsb c d a
  | .ldrsh c d a => EncodedCell.ldrsh c d a
  | .ldrd c d a => EncodedCell.ldrd c d a
  | .strd c d a => EncodedCell.strd c d a
  | .ldr c d a => EncodedCell.ldr c d a
  | .str c d a => EncodedCell.str c d a
  | .ldrb c d a => EncodedCell.ldrb c d a
  | .strb c d a => EncodedCell.strb c d a
  | .ldrt c d a => EncodedCell.ldrt c d a
  | .strt c d a => EncodedCell.strt c d a
  | .ldrbt c d a => EncodedCell.ldrbt c d a
  | .strbt c d a => EncodedCell.strbt c d a
  | .swp c d m n => EncodedCell.swp c d m n
  | .swpb c d m n => EncodedCell.swpb c d m n
  | .b c imm24 => EncodedCell.b c imm24
  | .bl c imm24 => EncodedCell.bl c imm24
  | .bx c m => EncodedCell.bx c m
  | .mrsCpsr c d => EncodedCell.mrsCpsr c d
  | .mrsSpsr c d => EncodedCell.mrsSpsr c d
  | .msrCpsr c mask o => EncodedCell.msrCpsr c mask o
  | .msrSpsr c mask o => EncodedCell.msrSpsr c mask o
  | .stm c a => EncodedCell.stm c a
  | .ldm c a => EncodedCell.ldm c a
  | .swi c comment => EncodedCell.swi c comment
  | .undefined c bits => EncodedCell.undefined c bits

/-- In its own cell, an encoded word gives its instruction: a case for each format. -/
theorem instrOf_encode (i : Instr) : instrOf i.handler i.resolver (encode i) = i := by
  cases i
  case and | ands | eor | eors | sub | subs | rsb | rsbs | add | adds | adc | adcs | sbc | sbcs | rsc | rscs | orr | orrs | bic | bics =>
    simp [instrOf, encode, Instr.handler, Instr.resolver, encodeDp_fields]
  case tst | teq | cmp | cmn | mov | movs | mvn | mvns =>
    simp [instrOf, encode, Instr.handler, Instr.resolver, encodeDp_fields]
  case mul | muls | mla | mlas | umull | umulls | umlal | umlals | smull | smulls | smlal | smlals | swp | swpb =>
    simp [instrOf, encode, Instr.handler, encodeMul_fields]
  case strh | ldrh | ldrsb | ldrsh | ldrd | strd => simp [instrOf, encode, Instr.handler, Instr.resolver, encodeXt_fields]
  case ldr | str | ldrb | strb => simp [instrOf, encode, Instr.handler, Instr.resolver, encodeSt2, mode2, encodeSt_fields]
  case ldrt | strt | ldrbt | strbt =>
    simp [instrOf, encode, Instr.handler, Instr.resolver, encodeStT, modeT, mode2, encodeSt_fields]
  case b | bl | swi => simp [instrOf, encode, Instr.handler, encodeBr_fields]
  case bx => simp [instrOf, encode, Instr.handler, encodeBx_fields]
  case mrsCpsr | mrsSpsr => simp [instrOf, encode, Instr.handler, encodeMrs_fields]
  case msrCpsr | msrSpsr => simp [instrOf, encode, Instr.handler, Instr.resolver, encodeMsr_fields]
  case stm | ldm => simp [instrOf, encode, Instr.handler, Instr.resolver, encodeBlk_fields]
  case undefined => simp [instrOf, encode, Instr.handler, undefined_fields]

/-- R143: a word decodes as its cell says. -/
theorem decodeWord_of_cell {w : Word} {h : HandlerId} {r : ResolverId} (hcell : table (rowOf w) (colOf w) = (h, r)) :
    decodeWord w = instrOf h r w := by
  unfold decodeWord
  rw [hcell]

theorem decodeWord_encode {i : Instr} (h : i.wellFormed = true) : decodeWord (encode i) = i :=
  (decodeWord_of_cell (encode_cell i h)).trans (instrOf_encode i)

/-- R64, R90: four bytes in ascending address order are their word. -/
theorem decode_wordBytes_append (w : Word) (rest : List Byte) : decode (wordBytes w ++ rest) = .ok (decodeWord w, rest) := by
  have high : w.extractLsb' 24 8 ++ w.extractLsb' 16 8 = w.extractLsb' 16 16 :=
    BitVec.extractLsb'_append_extractLsb'_eq_extractLsb' rfl
  have mid : w.extractLsb' 16 16 ++ w.extractLsb' 8 8 = w.extractLsb' 8 24 :=
    BitVec.extractLsb'_append_extractLsb'_eq_extractLsb' rfl
  have low : w.extractLsb' 8 24 ++ w.extractLsb' 0 8 = w :=
    (BitVec.extractLsb'_append_extractLsb'_eq_extractLsb' rfl).trans (extract_all w)
  have join : w.extractLsb' 24 8 ++ w.extractLsb' 16 8 ++ w.extractLsb' 8 8 ++ w.extractLsb' 0 8 = w := by
    rw [high, mid, low]
  exact congrArg (fun v => Except.ok (decodeWord v, rest)) join

/-- Settles O1: the encoded word lands in the instruction's cell, and the fields read there are its operands. -/
theorem decodeOfEncodeIsTheInstruction : Obligations.DecodeOfEncodeIsTheInstruction := by
  intro i h
  refine ⟨decodeWord_encode h, fun rest => ?_⟩
  rw [decode_wordBytes_append, decodeWord_encode h]

/-! ### Ignored bits (R108) -/

/-- Two words that differ in no bit outside the mask `m`. -/
def AgreeOutside (m w v : Word) : Prop := ∀ k : Nat, m.getLsbD k = false → w.getLsbD k = v.getLsbD k

theorem AgreeOutside.eq {w v : Word} (h : AgreeOutside 0 w v) : w = v :=
  BitVec.eq_of_getLsbD_eq fun k _ => h k BitVec.getLsbD_zero

section
variable {m w v : Word} (h : AgreeOutside m w v)
include h

/-- A field that the mask leaves alone is the same in both words. -/
theorem AgreeOutside.field (lo len : Nat) (hm : m.extractLsb' lo len = 0) : w.extractLsb' lo len = v.extractLsb' lo len := by
  refine BitVec.eq_of_getLsbD_eq fun k hk => ?_
  have hbit : m.getLsbD (lo + k) = false := by
    simpa [hk] using congrArg (fun x => x.getLsbD k) hm
  simp [h _ hbit]

theorem AgreeOutside.regAt (lo : Nat) (hm : m.extractLsb' lo 4 = 0) : regAt w lo = regAt v lo :=
  congrArg BitVec.toFin (h.field lo 4 hm)

/-- A shifter operand is read from bits 11:0. -/
theorem AgreeOutside.shifterOperand (r : ResolverId) (hm : m.extractLsb' 0 12 = 0) : shifterOperand r w = shifterOperand r v := by
  have part (lo len : Nat) (hle : lo + len ≤ 12) : m.extractLsb' lo len = 0 := by
    rw [← Nat.zero_add lo, ← extract_extract m 0 12 lo len hle, hm]
    exact BitVec.extractLsb'_zero
  have hamt : shiftAmount w = shiftAmount v := h.field 7 5 (part 7 5 (by decide))
  have hm0 : Sys2Proof.regAt w 0 = Sys2Proof.regAt v 0 := h.regAt 0 (part 0 4 (by decide))
  have hs : Sys2Proof.regAt w 8 = Sys2Proof.regAt v 8 := h.regAt 8 (part 8 4 (by decide))
  have hrot : w.extractLsb' 8 4 = v.extractLsb' 8 4 := h.field 8 4 (part 8 4 (by decide))
  have himm : w.extractLsb' 0 8 = v.extractLsb' 0 8 := h.field 0 8 (part 0 8 (by decide))
  unfold Sys2Proof.shifterOperand
  rw [hamt, hm0, hs, hrot, himm]

end

/-- No ignored bit lies in the condition, the row or the column of a word. -/
theorem ignoredBits_cell (i : Instr) :
    (ignoredBits i).extractLsb' 20 8 = 0 ∧ (ignoredBits i).extractLsb' 4 4 = 0 ∧ (ignoredBits i).extractLsb' 28 4 = 0 := by
  unfold ignoredBits
  split <;> decide

/-- The fields that the decoder reads in the cell of `i` hold no ignored bit. -/
theorem instrOf_agreeOutside {i : Instr} {w v : Word} (h : AgreeOutside (ignoredBits i) w v) :
    instrOf i.handler i.resolver w = instrOf i.handler i.resolver v := by
  obtain ⟨-, -, hfree⟩ := ignoredBits_cell i
  have hcond : w.extractLsb' 28 4 = v.extractLsb' 28 4 := h.field 28 4 hfree
  cases i
  case tst | teq | cmp | cmn =>
    have h : AgreeOutside 0x0000F000 w v := h
    simp only [instrOf, Instr.handler, hcond, h.regAt 16 (by decide), h.shifterOperand _ (by decide)]
  case mov | movs | mvn | mvns =>
    have h : AgreeOutside 0x000F0000 w v := h
    simp only [instrOf, Instr.handler, hcond, h.regAt 12 (by decide), h.shifterOperand _ (by decide)]
  case mul | muls =>
    have h : AgreeOutside 0x0000F000 w v := h
    simp only [instrOf, Instr.handler, hcond, h.regAt 16 (by decide), h.regAt 8 (by decide), h.regAt 0 (by decide)]
  case swp | swpb =>
    have h : AgreeOutside 0x00000F00 w v := h
    simp only [instrOf, Instr.handler, hcond, h.regAt 16 (by decide), h.regAt 12 (by decide), h.regAt 0 (by decide)]
  case strh d a | ldrh d a | ldrsb d a | ldrsh d a | ldrd d a | strd d a =>
    obtain ⟨ix, up, n, off⟩ := a
    cases off with
    | imm offset => exact congrArg _ (AgreeOutside.eq h)
    | reg m =>
      have h : AgreeOutside 0x00000F00 w v := h
      simp only [instrOf, Instr.handler, Instr.resolver, Mode3.resolver, mode3, offset3, cond_false, hcond, h.regAt 16 (by decide),
        h.regAt 12 (by decide), h.regAt 0 (by decide)]
  case mrsCpsr | mrsSpsr =>
    have h : AgreeOutside 0x000F0F0F w v := h
    simp only [instrOf, Instr.handler, hcond, h.regAt 12 (by decide)]
  case msrCpsr mask o | msrSpsr mask o =>
    cases o with
    | reg m =>
      have h : AgreeOutside 0x0000FF00 w v := h
      simp only [instrOf, Instr.handler, Instr.resolver, PsrOperand.resolver, psrOperand, hcond, h.field 16 4 (by decide),
        h.regAt 0 (by decide)]
    | imm rot imm8 =>
      have h : AgreeOutside 0x0000F000 w v := h
      simp only [instrOf, Instr.handler, Instr.resolver, PsrOperand.resolver, psrOperand, hcond, h.field 16 4 (by decide),
        h.field 8 4 (by decide), h.field 0 8 (by decide)]
  case bx =>
    have h : AgreeOutside 0x000FFF00 w v := h
    simp only [instrOf, Instr.handler, hcond, h.regAt 0 (by decide)]
  all_goals exact congrArg _ (AgreeOutside.eq h)

/-- Settles O2: the word lies in the same cell, and the fields read there are the same. -/
theorem ignoredBitsDoNotChangeDecoding : Obligations.IgnoredBitsDoNotChangeDecoding := by
  intro i w hwf h
  have hagree : AgreeOutside (ignoredBits i) w (encode i) := h
  obtain ⟨hrow, hcol, -⟩ := ignoredBits_cell i
  have hcell : table (rowOf w) (colOf w) = (i.handler, i.resolver) := by
    rw [rowOf, colOf, hagree.field 20 8 hrow, hagree.field 4 4 hcol]
    exact encode_cell i hwf
  calc
    decodeWord w = instrOf i.handler i.resolver w := decodeWord_of_cell hcell
    _ = instrOf i.handler i.resolver (encode i) := instrOf_agreeOutside hagree
    _ = i := instrOf_encode i

/-! ### Every word (R143, R145) -/

@[simp] theorem cond_bits_ofBits (b : BitVec 4) : (Cond.ofBits b).bits = b := by
  revert b
  decide

@[simp] theorem handler_instrOf (h : HandlerId) (r : ResolverId) (w : Word) : (instrOf h r w).handler = h := by
  cases h <;> rfl

@[simp] theorem cond_instrOf (h : HandlerId) (r : ResolverId) (w : Word) :
    (instrOf h r w).cond = Cond.ofBits (w.extractLsb' 28 4) := by
  cases h <;> rfl

/-- The resolver of a cell is the one that the instructions of its handler read their operand by. -/
def ResolverFits (cell : HandlerId × ResolverId) : Prop := ∀ w : Word, (instrOf cell.1 cell.2 w).resolver = cell.2

theorem resolver_dpHandler (opc : BitVec 4) (s : Bool) (r : ResolverId) (w : Word) :
    (instrOf (dpHandler opc s) r w).resolver = (shifterOperand r w).resolver := by
  unfold dpHandler
  split <;> cases s <;> rfl

theorem resolverFits_multiply (row : BitVec 8) : ResolverFits (tableMultiply row) := by
  intro w
  unfold tableMultiply
  split <;> rfl

theorem resolver_mode3 (ix : Index3) (imm up : Bool) (w : Word) : (mode3 (.m3 ix imm up) w).resolver = .m3 ix imm up := by
  cases imm <;> rfl

theorem resolverFits_extended (row : BitVec 8) (col : BitVec 4) : ResolverFits (tableExtended row col) := by
  intro w
  unfold tableExtended
  dsimp only
  split <;> cases row.getLsbD 0 <;> exact resolver_mode3 _ _ _ w

theorem resolverFits_misc (row : BitVec 8) (col : BitVec 4) : ResolverFits (tableMisc row col) := by
  intro w
  unfold tableMisc
  split <;> rfl

theorem resolverFits_register (row : BitVec 8) (col : BitVec 4) : ResolverFits (tableRegister row col) := by
  unfold tableRegister
  split
  · exact resolverFits_multiply row
  · split
    · exact resolverFits_extended row col
    · split
      · exact resolverFits_misc row col
      · intro w
        dsimp only
        rw [resolver_dpHandler]
        cases col.getLsbD 0 <;> rfl

theorem resolverFits_immediate (row : BitVec 8) : ResolverFits (tableImmediate row) := by
  intro w
  unfold tableImmediate
  split
  · split <;> rfl
  · exact resolver_dpHandler _ _ _ w

theorem resolverFits_singleHandler (l b p w up : Bool) (k : OffsetKind) :
    ResolverFits (singleHandler l b (!p && w), .m2 (index2 p w) k up) := by
  intro x
  cases k <;> cases l <;> cases b <;> cases p <;> cases w <;> rfl

theorem resolverFits_single (row : BitVec 8) (col : BitVec 4) : ResolverFits (tableSingle row col) := by
  unfold tableSingle
  dsimp only
  split
  · exact fun w => rfl
  · exact resolverFits_singleHandler _ _ _ _ _ _

/-- The blocks of the dispatch table, one by one. -/
theorem resolverFits_table (row : BitVec 8) (col : BitVec 4) : ResolverFits (table row col) := by
  unfold table
  split
  · exact resolverFits_register row col
  · exact resolverFits_immediate row
  · exact resolverFits_single row col
  · exact resolverFits_single row col
  · cases row.getLsbD 0 <;> exact fun w => rfl
  · cases row.getLsbD 4 <;> exact fun w => rfl
  · exact fun w => rfl
  · cases row.getLsbD 4 <;> exact fun w => rfl

/-! ### The UNDEFINED cells (R107) -/

set_option maxRecDepth 100000 in
/-- The converse of `table_undefined`: no other cell holds UNDEFINED. -/
theorem undefinedCell_of_table : ∀ (row : BitVec 8) (col : BitVec 4), (table row col).1 = .undefined →
    undefinedCell row.toNat col.toNat = true := by decide

theorem handler_decodeWord (w : Word) : (decodeWord w).handler = (table (rowOf w) (colOf w)).1 := handler_instrOf _ _ w

/-- A word of an UNDEFINED cell decodes to the term that carries all of it. -/
theorem decodeWord_undefined {w : Word} (h : (table (rowOf w) (colOf w)).1 = .undefined) :
    decodeWord w = .undefined (Cond.ofBits (w.extractLsb' 28 4)) (w.extractLsb' 0 28) := by
  unfold decodeWord
  dsimp only
  rw [h]
  rfl

/-- Only an `undefined` term has a check. -/
theorem wellFormed_of_handler_ne {i : Instr} (h : i.handler ≠ .undefined) : i.wellFormed = true := by
  cases i
  case undefined c bits => exact absurd rfl h
  all_goals rfl

theorem wellFormed_decodeWord (w : Word) : (decodeWord w).wellFormed = true := by
  by_cases h : (table (rowOf w) (colOf w)).1 = .undefined
  · rw [decodeWord_undefined h]
    have hrow : (w.extractLsb' 0 28).extractLsb' 20 8 = rowOf w := extract_extract w 0 28 20 8 (by decide)
    have hcol : (w.extractLsb' 0 28).extractLsb' 4 4 = colOf w := extract_extract w 0 28 4 4 (by decide)
    change undefinedCell _ _ = true
    rw [hrow, hcol]
    exact undefinedCell_of_table _ _ h
  · exact wellFormed_of_handler_ne (by rwa [handler_decodeWord])

/-- Settles O3: the decoder takes handler and resolver from the cell, and each cell's resolver is one its handler reads. -/
theorem everyWordDecodesToItsCell : Obligations.EveryWordDecodesToItsCell := by
  intro w
  refine ⟨wellFormed_decodeWord w, Prod.ext (handler_decodeWord w) (resolverFits_table _ _ w), ?_⟩
  exact (congrArg Cond.bits (cond_instrOf _ _ w)).trans (cond_bits_ofBits _)

/-- Settles O4: the cells of the table with UNDEFINED are those of the list, and the term's parts are the two parts of the word. -/
theorem undefinedCellsAreListed : Obligations.UndefinedCellsAreListed := by
  intro w
  have cell_of {c : Cond} {bits : BitVec 28} (hw : decodeWord w = .undefined c bits) :
      (table (rowOf w) (colOf w)).1 = .undefined := by
    rw [← handler_decodeWord, hw]
    rfl
  refine ⟨⟨fun ⟨c, bits, hw⟩ => undefinedCell_of_table _ _ (cell_of hw), fun hlist => ?_⟩, fun c bits hw => ?_⟩
  · exact ⟨_, _, decodeWord_undefined (congrArg Prod.fst (table_undefined _ _ hlist))⟩
  · obtain ⟨rfl, rfl⟩ := Instr.undefined.inj (hw.symm.trans (decodeWord_undefined (cell_of hw)))
    rw [cond_bits_ofBits]
    exact (BitVec.extractLsb'_append_extractLsb'_eq_extractLsb' (Nat.zero_add 28).symm).trans (extract_all w)

/-! ### Worked words -/

/-- Settles O5: the decoder is run on each of the words. -/
theorem workedWordsDecode : Obligations.WorkedWordsDecode := by
  unfold Obligations.WorkedWordsDecode
  decide

end Sys2Proof.Proofs
end

section
/-! The condition: the evaluator's table (O6), and the step whose condition fails (O8). -/

namespace Sys2Proof.Proofs

open Sys2Proof Sys2Proof.Machine Sys2Proof.Laws

/-- Settles O6: the rows are those of `condPass`, which compares flags with `==` and `!=` in the rows GE to LE. -/
theorem conditionEvaluator : Obligations.ConditionEvaluator := by
  intro n z c v
  have hsame : (n == v) = decide (n = v) := beq_eq_decide n v
  have hdiffer : (n != v) = decide (n ≠ v) := by rw [bne, hsame, decide_not]
  exact ⟨rfl, rfl, rfl, rfl, rfl, rfl, rfl, rfl, rfl, rfl, hsame, hdiffer,
    congrArg (!z && ·) hsame, congrArg (z || ·) hdiffer, rfl, rfl⟩

/-- The plain skip (R123): no handler runs. -/
theorem act_of_failing {i : Instr} {s : State} (h : s.passes i.cond = false) : act i s = .next (advance s) :=
  if_neg (Bool.eq_false_iff.mp h)

theorem stepKind_skipped {s : State} (hc : s.counter = 0) (hfail : s.passes (decodeWord s.decodeSlot).cond = false) :
    stepKind s = .skipped := by
  rw [stepKind, if_pos hc, if_neg (Bool.eq_false_iff.mp hfail)]

/-- Settles O8: the shift leaves the flags as they are, so the condition fails on the shifted window too, and the act is a plain skip. -/
theorem failingConditionOnlyAdvances : Obligations.FailingConditionOnlyAdvances := by
  intro s ht hc hfail
  have hshifted : (shift s).passes (decodeWord s.decodeSlot).cond = false := hfail
  have hstep : step s = .next (advance (shift s)) := by
    rw [step_arm ht, if_pos hc, act_of_failing hshifted]
  exact ⟨stepKind_skipped hc hfail, hstep⟩

end Sys2Proof.Proofs
end

section
/-! The resolvers: the index forms of modes 2 and 3 (O27), the addresses of the block transfers (O28), and the shifter operands bit by bit,
shifted by a constant (O29) and by a register (O30). -/

namespace Sys2Proof.Proofs

open Sys2Proof Sys2Proof.Machine Sys2Proof.Laws

/-! ### Addresses (R184-R197) -/

/-- Settles O27: the resolvers of modes 2 and 3 are one match on the index form, and `offsetAddr` is `base ± offset`. -/
theorem indexForms : Obligations.IndexForms := by
  intro s up n m off2 off3 v12 v8 t amt
  exact ⟨rfl, rfl, rfl, rfl, ⟨rfl, rfl, rfl, rfl⟩, rfl, rfl, rfl, rfl, rfl⟩

/-- The bytes of a block transfer, counted by the rank of register 16 (R197, R369). -/
theorem blockSize_eq (a : Mode4) : blockSize a = if a.list = 0 then 0x40 else 4 * BitVec.ofNat 32 (rank a.list 16) := by
  rw [blockSize, listRegs_length]

/-- Settles O28: `blockStart` and `blockWbAddr` match on P and U, and `blockSize_eq` counts their bytes. -/
theorem blockAddresses : Obligations.BlockAddresses := by
  intro a base bytes
  have hsize : blockSize a = bytes := blockSize_eq a
  refine ⟨fun hp hu => ?_, fun hp hu => ?_, fun hp hu => ?_, fun hp hu => ?_⟩ <;>
    simp [blockStart, blockWbAddr, hp, hu, hsize]

/-! ### A register shifted by a constant, and the rotated immediate (R173-R178) -/

theorem rotatedImmediate_bit (rot : BitVec 4) (imm8 : BitVec 8) (c : Bool) {i : Nat} (hi : i < 32) :
    (rotatedImmediate rot imm8 c).value.getLsbD i = imm8.getLsbD ((i + 2 * rot.toNat) % 32) := by
  rw [rotatedImmediate, ror, rotateRight_bit _ _ _ hi, BitVec.getLsbD_setWidth, decide_eq_true (Nat.mod_lt _ (by decide)),
    Bool.true_and]

/-- The amount that a constant of 0 stands for in LSR and ASR (R176, R177). -/
def fullAmount (a : Nat) : Nat := if a = 0 then 32 else a

theorem fullAmount_zero : fullAmount 0 = 32 := rfl

theorem fullAmount_of_ne {a : Nat} (h : a ≠ 0) : fullAmount a = a := if_neg h

section
variable (rm : Word) (a : Nat) (c : Bool) {i : Nat}

theorem lslImmediate_bit (hi : i < 32) :
    (shiftByImmediate .lsl rm a c).value.getLsbD i = (decide (a ≤ i) && rm.getLsbD (i - a)) := by
  by_cases h : a = 0
  · simp [shiftByImmediate, h]
  · simp only [shiftByImmediate, if_neg h]
    exact shiftLeft_bit rm a i hi

theorem lslImmediate_carry : (shiftByImmediate .lsl rm a c).carry = if a = 0 then c else rm.getLsbD (32 - a) :=
  apply_ite Shifted.carry _ _ _

theorem lsrImmediate_bit : (shiftByImmediate .lsr rm a c).value.getLsbD i = rm.getLsbD (i + fullAmount a) := by
  by_cases h : a = 0
  · simp [shiftByImmediate, h, fullAmount_zero]
  · simp [shiftByImmediate, h, fullAmount_of_ne h, Nat.add_comm]

theorem lsrImmediate_carry : (shiftByImmediate .lsr rm a c).carry = rm.getLsbD (fullAmount a - 1) := by
  by_cases h : a = 0
  · simp [shiftByImmediate, h, fullAmount_zero, msb_eq_bit31]
  · simp [shiftByImmediate, h, fullAmount_of_ne h]

theorem asrImmediate_bit (hi : i < 32) :
    (shiftByImmediate .asr rm a c).value.getLsbD i = rm.getLsbD (min (i + fullAmount a) 31) := by
  by_cases h : a = 0
  · simp only [shiftByImmediate, h, fullAmount_zero]
    exact signFill_bit rm i 32 hi (Nat.le_refl _)
  · simp only [shiftByImmediate, if_neg h, fullAmount_of_ne h]
    exact sshiftRight_bit rm a i hi

theorem asrImmediate_carry : (shiftByImmediate .asr rm a c).carry = rm.getLsbD (fullAmount a - 1) := by
  by_cases h : a = 0
  · simp [shiftByImmediate, h, fullAmount_zero, msb_eq_bit31]
  · simp [shiftByImmediate, h, fullAmount_of_ne h]

/-- RRX: the C flag comes in at the top (R178). -/
theorem rrx_bit (hi : i < 32) : (shiftByImmediate .ror rm 0 c).value.getLsbD i = if i = 31 then c else rm.getLsbD (i + 1) := by
  show (bit c ++ rm.extractLsb' 1 31).getLsbD i = _
  rw [BitVec.getLsbD_append]
  by_cases h : i = 31
  · simp [h, bit]
  · have hlow : i < 31 := by omega
    simp [h, hlow, Nat.add_comm]

theorem rorImmediate_bit (h : a ≠ 0) (hi : i < 32) : (shiftByImmediate .ror rm a c).value.getLsbD i = rm.getLsbD ((i + a) % 32) := by
  simp only [shiftByImmediate, if_neg h]
  exact rotateRight_bit rm a i hi

theorem rorImmediate_carry (h : a ≠ 0) : (shiftByImmediate .ror rm a c).carry = rm.getLsbD (a - 1) := by
  simp only [shiftByImmediate, if_neg h]

end

/-- Settles O29: one lemma for the value and one for the carry of each shift, split on an amount of 0. -/
theorem immediateShifts : Obligations.ImmediateShifts := by
  intro rm amt rot imm8 c i hi a n
  have hcarry : (rotatedImmediate rot imm8 c).carry = if rot = 0 then c else (rotatedImmediate rot imm8 c).value.getLsbD 31 := by
    rw [← msb_eq_bit31]
    rfl
  refine ⟨rotatedImmediate_bit rot imm8 c hi, hcarry, lslImmediate_bit rm a c hi, lslImmediate_carry rm a c,
    lsrImmediate_bit rm a c, lsrImmediate_carry rm a c, asrImmediate_bit rm a c hi, asrImmediate_carry rm a c,
    fun h => ⟨rorImmediate_bit rm a c h hi, rorImmediate_carry rm a c h⟩, fun h => ?_⟩
  rw [h]
  exact ⟨rrx_bit rm c hi, rfl⟩

/-! ### A register shifted by a register (R179-R183) -/

section
variable (rm : Word) {n : Nat} (c : Bool) {i : Nat}

theorem lslRegister_bit (hn : n ≠ 0) (hi : i < 32) :
    (shiftByRegister .lsl rm n c).value.getLsbD i = (decide (n ≤ i) && rm.getLsbD (i - n)) := by
  simp only [shiftByRegister, if_neg hn]
  by_cases hlt : n < 32
  · rw [if_pos hlt]
    exact shiftLeft_bit rm n i hi
  · have hle : ¬n ≤ i := by omega
    by_cases h32 : n = 32 <;> simp [hlt, h32, hle, hi]

theorem lslRegister_carry (hn : n ≠ 0) :
    (shiftByRegister .lsl rm n c).carry = (decide (n ≤ 32) && rm.getLsbD (32 - n)) := by
  simp only [shiftByRegister, if_neg hn]
  by_cases hlt : n < 32
  · simp [hlt, Nat.le_of_lt hlt]
  · by_cases h32 : n = 32
    · simp [h32]
    · have hle : ¬n ≤ 32 := by omega
      simp [hlt, h32, hle]

theorem lsrRegister_bit (hn : n ≠ 0) : (shiftByRegister .lsr rm n c).value.getLsbD i = rm.getLsbD (i + n) := by
  simp only [shiftByRegister, if_neg hn]
  by_cases hlt : n < 32
  · rw [if_pos hlt, BitVec.getLsbD_ushiftRight, Nat.add_comm]
  · have hout : rm.getLsbD (i + n) = false := BitVec.getLsbD_of_ge _ _ (by omega)
    rw [hout, if_neg hlt]
    by_cases h32 : n = 32 <;> simp [h32]

theorem lsrRegister_carry (hn : n ≠ 0) : (shiftByRegister .lsr rm n c).carry = rm.getLsbD (n - 1) := by
  simp only [shiftByRegister, if_neg hn]
  by_cases hlt : n < 32
  · rw [if_pos hlt]
  · by_cases h32 : n = 32
    · simp [h32, msb_eq_bit31]
    · rw [if_neg hlt, if_neg h32]
      exact (BitVec.getLsbD_of_ge _ _ (by omega)).symm

theorem asrRegister_bit (hn : n ≠ 0) (hi : i < 32) :
    (shiftByRegister .asr rm n c).value.getLsbD i = rm.getLsbD (min (i + n) 31) := by
  simp only [shiftByRegister, if_neg hn]
  by_cases hlt : n < 32
  · rw [if_pos hlt]
    exact sshiftRight_bit rm n i hi
  · rw [if_neg hlt]
    exact signFill_bit rm i n hi (by omega)

theorem asrRegister_carry (hn : n ≠ 0) : (shiftByRegister .asr rm n c).carry = rm.getLsbD (min (n - 1) 31) := by
  simp only [shiftByRegister, if_neg hn]
  by_cases hlt : n < 32
  · rw [if_pos hlt, show min (n - 1) 31 = n - 1 by omega]
  · rw [if_neg hlt, show min (n - 1) 31 = 31 by omega]
    exact msb_eq_bit31 rm

/-- A rotation by a multiple of 32 leaves the register, and its carry is bit 31 (R183). -/
theorem rorRegister_bit (hn : n ≠ 0) (hi : i < 32) :
    (shiftByRegister .ror rm n c).value.getLsbD i = rm.getLsbD ((i + n) % 32) := by
  simp only [shiftByRegister, if_neg hn]
  by_cases h : n % 32 = 0
  · rw [if_pos h, show (i + n) % 32 = i by omega]
  · rw [if_neg h, show (i + n) % 32 = (i + n % 32) % 32 by omega]
    exact rotateRight_bit rm (n % 32) i hi

theorem rorRegister_carry (hn : n ≠ 0) : (shiftByRegister .ror rm n c).carry = rm.getLsbD ((n - 1) % 32) := by
  simp only [shiftByRegister, if_neg hn]
  by_cases h : n % 32 = 0
  · rw [if_pos h, show (n - 1) % 32 = 31 by omega]
    exact msb_eq_bit31 rm
  · rw [if_neg h, show (n - 1) % 32 = n % 32 - 1 by omega]

end

/-- Settles O30: one lemma for the value and one for the carry of each shift, split on amounts below, at and above 32. -/
theorem registerShifts : Obligations.RegisterShifts := by
  intro rm n c t i hi
  refine ⟨rfl, fun hpos _ => ?_⟩
  have hn : n ≠ 0 := Nat.one_le_iff_ne_zero.mp hpos
  exact ⟨lslRegister_bit rm c hn hi, lslRegister_carry rm c hn, lsrRegister_bit rm c hn, lsrRegister_carry rm c hn,
    asrRegister_bit rm c hn hi, asrRegister_carry rm c hn, rorRegister_bit rm c hn hi, rorRegister_carry rm c hn⟩

end Sys2Proof.Proofs
end

section
/-! The halts under UNPRED = Fault of the register-shift forms (O37), of the single transfers (O45) and of the extended transfers (O48). -/

namespace Sys2Proof.Proofs

open Sys2Proof Sys2Proof.Machine Sys2Proof.Laws

/-! ### The first check that holds (R438) -/

section
variable {r : UnpredReason} {b : Bool} {cs : List (UnpredReason × Bool)} {s : State} {k : Outcome} {P : Prop}

theorem guardUnpred_cons_hit (hp : s.params.unpred = .fault) (hb : b = true ↔ P) (h : P) :
    guardUnpred ((r, b) :: cs) s k = .fault (.unpredictable r (s.pc - 8)) :=
  guardUnpred_some _ _ _ _ hp (by rw [firstReason_cons, if_pos (hb.mpr h)])

theorem guardUnpred_cons_miss (hb : b = true ↔ P) (h : ¬P) : guardUnpred ((r, b) :: cs) s k = guardUnpred cs s k := by
  have hfirst : firstReason ((r, b) :: cs) = firstReason cs := by rw [firstReason_cons, if_neg (hb.not.mpr h)]
  unfold guardUnpred
  rw [hfirst]

end

/-! ### The register-shift forms (R179) -/

/-- The answer `out` comes after the checks `cs`, and perhaps others behind them. -/
def ChecksFirst (s : State) (cs : List (UnpredReason × Bool)) (out : Outcome) : Prop := ∃ rest k, out = guardUnpred (cs ++ rest) s k

theorem checksFirst_dpPlain (op : AluOp) (n : Option Reg) (d : Reg) (o : ShifterOperand) (s : State) :
    ChecksFirst s (shifterChecks (n.toList ++ [d]) o) (dpPlain op n d o s) :=
  ⟨[], _, congrArg (guardUnpred · s _) (List.append_nil _).symm⟩

theorem checksFirst_dpFlags (op : AluOp) (n : Option Reg) (d : Reg) (o : ShifterOperand) (s : State) :
    ChecksFirst s (shifterChecks (n.toList ++ [d]) o) (dpFlags op n d o s) :=
  ⟨_, _, rfl⟩

theorem checksFirst_dpCompare (op : AluOp) (n : Reg) (o : ShifterOperand) (s : State) :
    ChecksFirst s (shifterChecks [n] o) (dpCompare op n o s) :=
  ⟨[], _, congrArg (guardUnpred · s _) (List.append_nil _).symm⟩

/-- The checks of a register-shift form: Rs before Rm and the other registers used. -/
theorem ChecksFirst.halts {s : State} {used : List Reg} {t : ShiftType} {rs m : Reg} {out : Outcome}
    (h : ChecksFirst s (shifterChecks used (.shiftReg t rs m)) out) (hp : s.params.unpred = .fault) :
    (rs = Reg.pc → out = .fault (.unpredictable .rsPC (s.pc - 8)))
      ∧ (rs ≠ Reg.pc → Reg.pc ∈ m :: used → out = .fault (.unpredictable .pcInRegShift (s.pc - 8))) := by
  obtain ⟨rest, k, rfl⟩ := h
  have hrs : (rs == Reg.pc) = true ↔ rs = Reg.pc := beq_iff_eq
  have hused : (m :: used).contains Reg.pc = true ↔ Reg.pc ∈ m :: used := List.contains_iff_mem
  exact ⟨guardUnpred_cons_hit hp hrs, fun hne hpc => (guardUnpred_cons_miss hrs hne).trans (guardUnpred_cons_hit hp hused hpc)⟩

/-- Settles O37: each of the forms is `dpPlain`, `dpFlags` or `dpCompare`, which all make the checks of `shifterChecks` first. -/
theorem registerShiftWithPcHalts : Obligations.RegisterShiftWithPcHalts := by
  intro c n d t rs m s hp o i used hi
  have plain (op n d) := checksFirst_dpPlain op n d o s
  have flags (op n d) := checksFirst_dpFlags op n d o s
  have compare (op n) := checksFirst_dpCompare op n o s
  refine ChecksFirst.halts (t := t) ?_ hp
  refine (?_ : ∀ p ∈ (_ : List (Instr × List Reg)), ChecksFirst s (shifterChecks p.2 o) (exec p.1 s)) (i, used) hi
  simp only [List.forall_mem_cons]
  exact ⟨plain aluAnd n d, flags aluAnd n d, plain aluEor n d, flags aluEor n d,
    plain aluSub n d, flags aluSub n d, plain aluRsb n d, flags aluRsb n d,
    plain aluAdd n d, flags aluAdd n d, plain aluAdc n d, flags aluAdc n d,
    plain aluSbc n d, flags aluSbc n d, plain aluRsc n d, flags aluRsc n d,
    plain aluOrr n d, flags aluOrr n d, plain aluBic n d, flags aluBic n d,
    plain aluMov none d, flags aluMov none d, plain aluMvn none d, flags aluMvn none d,
    compare aluAnd n, compare aluEor n, compare aluSub n, compare aluAdd n, List.forall_mem_nil _⟩

/-! ### The single transfers (R332) -/

/-- The reason for a written-back base that the transfer loads or stores (R302, R332). -/
def baseReason (load : Bool) : UnpredReason := if load = true then .loadWriteBackBase else .storeWriteBackBase

/-- The single transfers, whether each loads, and whether it transfers a byte. -/
def singleForms (c : Cond) (d : Reg) (a : Mode2) : List (Instr × Bool × Bool) :=
  [(.ldr c d a, true, false), (.str c d a, false, false), (.ldrb c d a, true, true), (.strb c d a, false, true)]

/-- Their T forms. -/
def tForms (c : Cond) (d : Reg) (a : ModeT) : List (Instr × Bool × Bool) :=
  [(.ldrt c d a, true, false), (.strt c d a, false, false), (.ldrbt c d a, true, true), (.strbt c d a, false, true)]

section
variable {c : Cond} {d : Reg} {i : Instr} {load byte : Bool}

/-- Every single transfer makes the checks of R332 first. -/
theorem exec_singleForms {a : Mode2} (hi : (i, load, byte) ∈ singleForms c d a) (s : State) :
    ∃ k, exec i s = guardUnpred (singleChecks (baseReason load) byte d a) s k := by
  simp only [singleForms, List.mem_cons, Prod.mk.injEq, List.not_mem_nil, or_false] at hi
  obtain ⟨rfl, rfl, rfl⟩ | ⟨rfl, rfl, rfl⟩ | ⟨rfl, rfl, rfl⟩ | ⟨rfl, rfl, rfl⟩ := hi
  · exact ⟨_, rfl⟩
  · exact ⟨_, rfl⟩
  · exact ⟨_, rfl⟩
  · exact ⟨_, rfl⟩

/-- So does every T form, as the post-indexed transfer that it is (R337). -/
theorem exec_tForms {a : ModeT} (hi : (i, load, byte) ∈ tForms c d a) (s : State) :
    ∃ k, exec i s = guardUnpred (singleChecks (baseReason load) byte d (tMode2 a)) s k := by
  simp only [tForms, List.mem_cons, Prod.mk.injEq, List.not_mem_nil, or_false] at hi
  obtain ⟨rfl, rfl, rfl⟩ | ⟨rfl, rfl, rfl⟩ | ⟨rfl, rfl, rfl⟩ | ⟨rfl, rfl, rfl⟩ := hi
  · exact ⟨_, rfl⟩
  · exact ⟨_, rfl⟩
  · exact ⟨_, rfl⟩
  · exact ⟨_, rfl⟩

end

/-- Settles O45: each check of `singleChecks` as a proposition, and the first that holds gives the reason. -/
theorem singleTransferUnpredictable : Obligations.SingleTransferUnpredictable := by
  intro c d a s hp i load byte hi wb offPc halts
  obtain ⟨k, hexec⟩ : ∃ k, exec i s = guardUnpred (singleChecks (baseReason load) byte d a) s k := by
    obtain hi | ⟨hix, hi⟩ := hi
    · exact exec_singleForms hi s
    · rw [← tMode2_eq hix]
      exact exec_tForms hi s
  have hbasePc : (index2Wb a.ix && a.n == Reg.pc) = true ↔ wb ∧ a.n = Reg.pc := by
    rw [Bool.and_eq_true, index2Wb_iff, beq_iff_eq]
  have hoff : offset2IsPc a.off = true ↔ offPc := offset2IsPc_iff a.off
  have hbase : (index2Wb a.ix && a.n == d) = true ↔ wb ∧ a.n = d := by rw [Bool.and_eq_true, index2Wb_iff, beq_iff_eq]
  have hbyte : (byte && d == Reg.pc) = true ↔ byte = true ∧ d = Reg.pc := by rw [Bool.and_eq_true, beq_iff_eq]
  have skip₁ (h₁) := hexec.trans (guardUnpred_cons_miss hbasePc h₁)
  have skip₂ (h₁ h₂) := (skip₁ h₁).trans (guardUnpred_cons_miss hoff h₂)
  have skip₃ (h₁ h₂ h₃) := (skip₂ h₁ h₂).trans (guardUnpred_cons_miss hbase h₃)
  exact ⟨fun h => hexec.trans (guardUnpred_cons_hit hp hbasePc h),
    fun h₁ h => (skip₁ h₁).trans (guardUnpred_cons_hit hp hoff h),
    fun h₁ h₂ h => (skip₂ h₁ h₂).trans (guardUnpred_cons_hit hp hbase h),
    fun h₁ h₂ h₃ h => (skip₃ h₁ h₂ h₃).trans (guardUnpred_cons_hit hp hbyte h)⟩

/-! ### The extended transfers (R302) -/

/-- The extended transfers, whether each loads, and whether it transfers a doubleword. -/
def extendedForms (c : Cond) (d : Reg) (a : Mode3) : List (Instr × Bool × Bool) :=
  [(.ldrh c d a, true, false), (.ldrsb c d a, true, false), (.ldrsh c d a, true, false), (.strh c d a, false, false),
    (.ldrd c d a, true, true), (.strd c d a, false, true)]

/-- Every extended transfer makes the checks of R302 first; LDRD tests the base against `d + 1` too. -/
theorem exec_extendedForms {c : Cond} {d : Reg} {a : Mode3} {i : Instr} {load dword : Bool}
    (hi : (i, load, dword) ∈ extendedForms c d a) (s : State) :
    ∃ hitsBase k, (hitsBase = true ↔ a.n = d ∨ (load = true ∧ dword = true ∧ a.n = d + 1))
      ∧ exec i s = guardUnpred (extendedChecks (baseReason load) hitsBase dword d a) s k := by
  simp only [extendedForms, List.mem_cons, Prod.mk.injEq, List.not_mem_nil, or_false] at hi
  obtain ⟨rfl, rfl, rfl⟩ | ⟨rfl, rfl, rfl⟩ | ⟨rfl, rfl, rfl⟩ | ⟨rfl, rfl, rfl⟩ | ⟨rfl, rfl, rfl⟩ | ⟨rfl, rfl, rfl⟩ := hi
  case inr.inr.inr.inr.inl => exact ⟨a.n == d || a.n == pairReg d, _, by simp [pairReg], rfl⟩
  all_goals exact ⟨a.n == d, _, by simp, rfl⟩

/-- Settles O48: each check of `extendedChecks` as a proposition, and the first that holds gives the reason. -/
theorem extendedTransferUnpredictable : Obligations.ExtendedTransferUnpredictable := by
  intro c d a s hp i load dword hi wb onBase halts
  obtain ⟨hitsBase, k, hhits, hexec⟩ := exec_extendedForms hi s
  have hbasePc : (index3Wb a.ix && a.n == Reg.pc) = true ↔ wb ∧ a.n = Reg.pc := by
    rw [Bool.and_eq_true, index3Wb_iff, beq_iff_eq]
  have hpostW : (a.ix == .postW) = true ↔ a.ix = .postW := beq_iff_eq
  have hoff : offset3IsPc a.off = true ↔ a.off = .reg Reg.pc := offset3IsPc_iff a.off
  have hbase : (index3Wb a.ix && hitsBase) = true ↔ wb ∧ onBase := by rw [Bool.and_eq_true, index3Wb_iff, hhits]
  have hd : (d == Reg.pc) = true ↔ d = Reg.pc := beq_iff_eq
  have hpair : (dword && d.val % 2 == 1 || dword && d == 14) = true ↔ dword = true ∧ (d.val % 2 = 1 ∨ d = Reg.lr) := by
    rw [← Bool.and_or_distrib_left, Bool.and_eq_true, Bool.or_eq_true, beq_iff_eq, beq_iff_eq]
  have skip₁ (h₁) := hexec.trans (guardUnpred_cons_miss hbasePc h₁)
  have skip₂ (h₁ h₂) := (skip₁ h₁).trans (guardUnpred_cons_miss hpostW h₂)
  have skip₃ (h₁ h₂ h₃) := (skip₂ h₁ h₂).trans (guardUnpred_cons_miss hoff h₃)
  have skip₄ (h₁ h₂ h₃ h₄) := (skip₃ h₁ h₂ h₃).trans (guardUnpred_cons_miss hbase h₄)
  have skip₅ (h₁ h₂ h₃ h₄ h₅) := (skip₄ h₁ h₂ h₃ h₄).trans (guardUnpred_cons_miss hd h₅)
  exact ⟨fun h => hexec.trans (guardUnpred_cons_hit hp hbasePc h),
    fun h₁ h => (skip₁ h₁).trans (guardUnpred_cons_hit hp hpostW h),
    fun h₁ h₂ h => (skip₂ h₁ h₂).trans (guardUnpred_cons_hit hp hoff h),
    fun h₁ h₂ h₃ h => (skip₃ h₁ h₂ h₃).trans (guardUnpred_cons_hit hp hbase h),
    fun h₁ h₂ h₃ h₄ h => (skip₄ h₁ h₂ h₃ h₄).trans (guardUnpred_cons_hit hp hd h),
    fun h₁ h₂ h₃ h₄ h₅ h => (skip₅ h₁ h₂ h₃ h₄ h₅).trans (guardUnpred_cons_hit hp hpair h)⟩

end Sys2Proof.Proofs
end

section
/-! LDM (O52): the words it reads, each at 4 times the rank of its register, and the registers it loads, r15 last. -/

namespace Sys2Proof.Proofs

open Sys2Proof Sys2Proof.Machine Sys2Proof.Laws

/-! ### The words that are read (R371) -/

/-- The word number `k` of a block transfer from `start` on. -/
def blockWord (s : State) (start : Word) (k : Nat) : Word :=
  match s.params.mem with
  | .flat => s.mem.read32 (start + 4 * BitVec.ofNat 32 k)
  | .given => Config.memAnswer (wordReads s.bus start (k + 1))

theorem readWords_eq_map (m : Memory) (n : Nat) :
    ∀ start : Word, m.readWords start n = (List.range n).map fun k => m.read32 (start + 4 * BitVec.ofNat 32 k) := by
  induction n with
  | zero => exact fun _ => rfl
  | succ n ih =>
    intro start
    have hplace (k : Nat) : start + 4 + 4 * BitVec.ofNat 32 k = start + 4 * BitVec.ofNat 32 (k + 1) := by
      rw [BitVec.ofNat_add]
      bv_omega
    simp only [Memory.readWords, ih, List.range_succ_eq_map, List.map_cons, List.map_map, Function.comp_def, hplace]
    simp

theorem blockWord_flat {s : State} (h : s.params.mem = .flat) (start : Word) :
    blockWord s start = fun k => s.mem.read32 (start + 4 * BitVec.ofNat 32 k) := by
  funext k
  rw [blockWord, h]

theorem blockWord_given {s : State} (h : s.params.mem = .given) (start : Word) :
    blockWord s start = fun k => Config.memAnswer (wordReads s.bus start (k + 1)) := by
  funext k
  rw [blockWord, h]

theorem loadWords_eq_map (s : State) (start : Word) (n : Nat) :
    s.loadWords start n = (List.range n).map (blockWord s start) := by
  cases h : s.params.mem with
  | flat =>
    rw [State.loadWords, blockWord_flat h, h]
    exact readWords_eq_map _ _ _
  | given => rw [State.loadWords, blockWord_given h, h]

theorem getElem?_blockRegs_rank {a : Mode4} {i : Reg} (hi : i ∈ blockRegs a) : (blockRegs a)[rank a.list i.val]? = some i := by
  by_cases h : a.list = 0
  · rw [blockRegs_of_empty h] at hi ⊢
    rw [List.mem_singleton.mp hi, h]
    decide
  · rw [blockRegs_of_ne h] at hi ⊢
    exact listRegs_getElem?_rank (mem_listRegs.mp hi)

/-- The registers that a block transfer moves, each with its word. -/
def loads (a : Mode4) (s : State) (start : Word) : List (Reg × Word) :=
  (blockRegs a).map fun i => (i, blockWord s start (rank a.list i.val))

theorem zip_loadWords (a : Mode4) (s : State) (start : Word) :
    (blockRegs a).zip (s.loadWords start (blockRegs a).length) = loads a s start := by
  have hnodup : (blockRegs a).Nodup := (blockRegs_sorted a).imp ne_of_lt
  refine List.ext_getElem (by simp [loads, loadWords_eq_map]) fun k hk hk' => ?_
  have hlt : k < (blockRegs a).length := by simpa [loads] using hk'
  have hrank : rank a.list (blockRegs a)[k].val = k := by
    have hget := getElem?_blockRegs_rank (List.getElem_mem hlt)
    have hlt' := (List.getElem?_eq_some_iff.mp hget).1
    exact (List.getElem?_inj hlt' hnodup).mp (hget.trans (List.getElem?_eq_getElem hlt).symm)
  simp [loads, loadWords_eq_map, hrank]

theorem mem_loads {a : Mode4} {s : State} {start : Word} {iv : Reg × Word} (h : iv ∈ loads a s start) : iv.1 ∈ blockRegs a := by
  obtain ⟨i, hi, rfl⟩ := List.mem_map.mp h
  exact hi

theorem loads_sorted (a : Mode4) (s : State) (start : Word) : (loads a s start).Pairwise (fun x y => x.1 < y.1) :=
  List.pairwise_map.mpr (blockRegs_sorted a)

/-! ### The registers that are loaded -/

/-- The physical register that LDM loads for register `r`; r15 is none. -/
def loadCell? (a : Mode4) (s : State) (r : Reg) : Option RegCell :=
  if a.s && !listHasPc a then s.userCell? r else s.cell? r

theorem loadAvoids_iff {a : Mode4} {s : State} {c : RegCell} {r : Reg} : LoadAvoids a s c r ↔ loadCell? a s r ≠ some c := by
  unfold LoadAvoids loadCell?
  split <;> rfl

theorem loadCell?_congr {s t : State} (a : Mode4) (hp : t.params = s.params) (hc : t.cpsr = s.cpsr) (r : Reg) :
    loadCell? a t r = loadCell? a s r := by
  unfold loadCell?
  rw [userCell?_congr hp, cell?_congr hp (by rw [hc])]

/-- In one bank two register numbers are two physical registers, and r15 is none. -/
theorem bankCell_injective {ctx : ContextPolicy} {code : BitVec 5} {i j : Reg} {c : RegCell}
    (hi : (if h : i.val < 15 then some (cellIn ctx code ⟨i.val, h⟩) else none) = some c)
    (hj : (if h : j.val < 15 then some (cellIn ctx code ⟨j.val, h⟩) else none) = some c) : i = j := by
  split at hi <;> split at hj <;> cases hi
  · have hcell := cellIn_injective _ _ _ _ (Option.some.inj hj)
    exact Fin.ext (Fin.mk.inj hcell).symm
  · cases hj

theorem cell?_injective {s : State} {i j : Reg} {c : RegCell} (hi : s.cell? i = some c) (hj : s.cell? j = some c) : i = j :=
  bankCell_injective hi hj

theorem userCell?_injective {s : State} {i j : Reg} {c : RegCell} (hi : s.userCell? i = some c) (hj : s.userCell? j = some c) :
    i = j :=
  bankCell_injective hi hj

theorem loadCell?_injective {a : Mode4} {s : State} {i j : Reg} {c : RegCell} (hi : loadCell? a s i = some c)
    (hj : loadCell? a s j = some c) : i = j := by
  unfold loadCell? at hi hj
  split at hi
  · rw [if_pos ‹_›] at hj
    exact userCell?_injective hi hj
  · rw [if_neg ‹_›] at hj
    exact cell?_injective hi hj

theorem setReg_regs_get_self {s : State} {i : Reg} {c : RegCell} (h : s.cell? i = some c) (v : Word) :
    (s.setReg i v).regs.get c = v := by
  unfold State.cell? at h
  split at h
  · cases h
    rw [setReg_of_lt _ _ _ ‹_›]
    exact get_set_self _ _ _
  · cases h

theorem setUserReg_regs_get_self {s : State} {i : Reg} {c : RegCell} (h : s.userCell? i = some c) (v : Word) :
    (s.setUserReg i v).regs.get c = v := by
  unfold State.userCell? at h
  split at h
  · cases h
    rw [State.setUserReg, dif_pos ‹_›]
    exact get_set_self _ _ _
  · cases h

/-- A load of a register other than r15 writes its physical register. -/
theorem loadOne_regs_self {a : Mode4} {s : State} {c : RegCell} {iv : Reg × Word} (hpc : iv.1 ≠ Reg.pc)
    (h : loadCell? a s iv.1 = some c) : (loadOne a s iv).regs.get c = iv.2 := by
  unfold loadCell? at h
  rw [loadOne, if_neg hpc]
  split
  · rw [if_pos ‹_›] at h
    exact setUserReg_regs_get_self h _
  · rw [if_neg ‹_›] at h
    exact setReg_regs_get_self h _

/-- r15 is loaded last, so each register before it is loaded in one mode, and no later load reaches it. -/
theorem foldl_loadOne_loaded {a : Mode4} {c : RegCell} {iv : Reg × Word} (hpc : iv.1 ≠ Reg.pc) (l : List (Reg × Word))
    (hsorted : l.Pairwise (fun x y => x.1 < y.1)) (hmem : iv ∈ l) :
    ∀ s : State, loadCell? a s iv.1 = some c → (l.foldl (loadOne a) s).regs.get c = iv.2 := by
  induction l with
  | nil => cases hmem
  | cons x l ih =>
    intro s hc
    rw [List.pairwise_cons] at hsorted
    obtain ⟨hlt, hsorted⟩ := hsorted
    have hx : x.1 ≠ Reg.pc := by
      rintro e
      obtain rfl | hiv := List.mem_cons.mp hmem
      · exact hpc e
      · exact absurd (hlt iv hiv) (by rw [e]; exact Nat.not_lt.mpr (Nat.le_of_lt_succ iv.1.isLt))
    have hcell (r : Reg) : loadCell? a (loadOne a s x) r = loadCell? a s r :=
      loadCell?_congr a (loadOne_params a s x) (loadOne_cpsr a s x (.inr hx)) r
    obtain rfl | hiv := List.mem_cons.mp hmem
    · rw [List.foldl_cons, foldl_loadOne_regs a c l hsorted]
      · exact loadOne_regs_self hpc hc
      · intro y hy
        rw [loadAvoids_iff, hcell]
        exact fun hyc => Nat.ne_of_lt (hlt y hy) (congrArg Fin.val (loadCell?_injective hc hyc))
    · exact ih hsorted hiv _ ((hcell iv.1).trans hc)

/-! ### r15 -/

/-- r15 is transferred: it is in the list, or the list is empty (R369). -/
abbrev movesPc (a : Mode4) : Prop := a.list.getLsbD 15 = true ∨ a.list = 0

/-- The registers of a list but r15, ascending. -/
def lowRegs (l : BitVec 16) : List Reg := (allRegs.take 15).filter fun i => l.getLsbD i.val

theorem ne_pc_of_mem_lowRegs {l : BitVec 16} {i : Reg} (h : i ∈ lowRegs l) : i ≠ Reg.pc := by
  have hlow : ∀ i ∈ allRegs.take 15, i ≠ Reg.pc := by decide
  exact hlow i (List.mem_of_mem_filter h)

theorem listRegs_eq (l : BitVec 16) : listRegs l = lowRegs l ++ if l.getLsbD 15 = true then [Reg.pc] else [] := by
  show (allRegs.take 15 ++ [Reg.pc]).filter _ = _
  rw [List.filter_append, List.filter_singleton]
  exact congrArg _ (Bool.cond_eq_ite ..)

theorem lowRegs_zero : lowRegs 0 = [] := by decide

theorem blockRegs_of_movesPc {a : Mode4} (h : movesPc a) : blockRegs a = lowRegs a.list ++ [Reg.pc] := by
  obtain h | h := h
  · rw [blockRegs_of_ne (list_ne_zero h), listRegs_eq, if_pos h]
  · rw [blockRegs_of_empty h, h, lowRegs_zero, List.nil_append]

theorem blockRegs_of_not_movesPc {a : Mode4} (h : ¬movesPc a) : blockRegs a = lowRegs a.list := by
  obtain ⟨hpc, hlist⟩ := not_or.mp h
  rw [blockRegs_of_ne hlist, listRegs_eq, if_neg hpc, List.append_nil]

theorem setUserReg_of_lt (s : State) (i : Reg) (v : Word) (h : i.val < 15) :
    s.setUserReg i v = { s with regs := s.regs.set (s.userCellOf ⟨i.val, h⟩) v } := dif_pos h

/-- A load of a register other than r15 writes the general registers only. -/
theorem loadOne_low {a : Mode4} {s : State} {iv : Reg × Word} (h : iv.1 ≠ Reg.pc) :
    ∃ regs, loadOne a s iv = { s with regs := regs } := by
  rw [loadOne, if_neg h]
  split
  · exact ⟨_, setUserReg_of_lt _ _ _ (lt_of_ne_pc h)⟩
  · exact ⟨_, setReg_of_lt _ _ _ (lt_of_ne_pc h)⟩

theorem foldl_loadOne_low {a : Mode4} (l : List (Reg × Word)) (h : ∀ iv ∈ l, iv.1 ≠ Reg.pc) :
    ∀ s : State, ∃ regs, l.foldl (loadOne a) s = { s with regs := regs } := by
  induction l with
  | nil => exact fun s => ⟨s.regs, rfl⟩
  | cons iv l ih =>
    intro s
    obtain ⟨regs, e⟩ := loadOne_low (a := a) (s := s) (h iv List.mem_cons_self)
    rw [List.foldl_cons, e]
    exact ih (fun x hx => h x (List.mem_cons_of_mem _ hx)) _

section
variable {a : Mode4} {s : State}

theorem foldl_loads_of_not_movesPc (h : ¬movesPc a) (s : State) (start : Word) (u : State) :
    ∃ regs, (loads a s start).foldl (loadOne a) u = { u with regs := regs } := by
  refine foldl_loadOne_low _ (fun iv hiv => ?_) u
  have hlow := mem_loads hiv
  rw [blockRegs_of_not_movesPc h] at hlow
  exact ne_pc_of_mem_lowRegs hlow

/-- The load of r15 comes after all others. -/
theorem foldl_loads_of_movesPc (h : movesPc a) (s : State) (start : Word) (u : State) :
    ∃ regs, (loads a s start).foldl (loadOne a) u
      = loadOne a { u with regs := regs } (Reg.pc, blockWord s start (rank a.list 15)) := by
  rw [loads, blockRegs_of_movesPc h, List.map_append, List.foldl_append]
  obtain ⟨regs, e⟩ := foldl_loadOne_low (a := a) ((lowRegs a.list).map fun i => (i, blockWord s start (rank a.list i.val)))
    (fun iv hiv => by
      obtain ⟨i, hi, rfl⟩ := List.mem_map.mp hiv
      exact ne_pc_of_mem_lowRegs hi) u
  rw [e]
  exact ⟨regs, rfl⟩

theorem withT_self {p : Psr} (h : p.t = true) : p.withT true = p := by
  have hrest : p.rest.extractLsb' 6 22 ++ bit true ++ p.rest.extractLsb' 0 5 = p.rest := by
    refine BitVec.eq_of_getLsbD_eq fun k hk => ?_
    simp only [BitVec.getLsbD_append, BitVec.getLsbD_extractLsb']
    by_cases hlow : k < 5
    · simp [hlow]
    by_cases hbit : k = 5
    · subst hbit
      exact h.symm
    · rw [if_neg hlow, if_neg (by omega), decide_eq_true (by omega), Bool.true_and, show 6 + (k - 5 - 1) = k by omega]
  unfold Psr.withT
  rw [hrest]

/-- Without a restore of CPSR, r15 is loaded by a PC write (R371). -/
theorem loadOne_pc_plain (h : a.s = false ∨ s.exc? = none) (v : Word) : loadOne a s (Reg.pc, v) = s.writePc v := by
  rw [loadOne, if_pos rfl]
  obtain h | h := h
  · rw [h]
    rfl
  · split
    · rw [returnFromException, currentSpsr_none h]
    · rfl

/-- The exception return (R371): CPSR is the SPSR, and pc is aligned for the state that its T gives. -/
theorem loadOne_pc_restore {m : ExcMode} (hs : a.s = true) (h : s.exc? = some m) (v : Word) :
    (loadOne a s (Reg.pc, v)).counter = 3 ∧ (loadOne a s (Reg.pc, v)).cpsr = s.spsr.get m
      ∧ (loadOne a s (Reg.pc, v)).pc = v &&& (if (s.spsr.get m).t = true then 0xFFFFFFFE else 0xFFFFFFFC) := by
  rw [loadOne, if_pos rfl, if_pos hs, returnFromException, currentSpsr_some h]
  by_cases ht : (s.spsr.get m).t = true
  · simp only [if_pos ht]
    exact ⟨rfl, withT_self ht, rfl⟩
  · simp only [if_neg ht]
    exact ⟨rfl, rfl, rfl⟩

theorem loadOne_pc_counter (v : Word) : (loadOne a s (Reg.pc, v)).counter = 3 := by
  cases hs : a.s with
  | false =>
    rw [loadOne_pc_plain (.inl hs)]
    rfl
  | true =>
    cases he : s.exc? with
    | none =>
      rw [loadOne_pc_plain (.inr he)]
      rfl
    | some m =>
      obtain ⟨hcounter, -⟩ := loadOne_pc_restore hs he v
      exact hcounter

/-! ### The base -/

theorem blockWriteBack_of_not (h : ¬(a.w = true ∧ a.n = Reg.pc)) (v : Word) :
    (blockWriteBack a v s).pc = s.pc ∧ (blockWriteBack a v s).counter = s.counter := by
  unfold blockWriteBack
  split
  · have hn : a.n ≠ Reg.pc := fun hn => h ⟨‹_›, hn⟩
    exact ⟨setReg_pc v hn, setReg_counter v hn⟩
  · exact ⟨rfl, rfl⟩

theorem blockWriteBack_pc (hw : a.w = true) (hn : a.n = Reg.pc) (v : Word) : blockWriteBack a v s = s.writePc v := by
  rw [blockWriteBack, if_pos hw, hn]
  rfl

theorem cell?_of_lt {i : Reg} (h : i.val < 15) : s.cell? i = some (s.cellOf ⟨i.val, h⟩) := dif_pos h

theorem userCell?_of_lt {i : Reg} (h : i.val < 15) : s.userCell? i = some (s.userCellOf ⟨i.val, h⟩) := dif_pos h

/-- In the reference context a register of the User bank is no register of another number in the current bank (R440). -/
theorem userCell?_ne_cellOf (hctx : s.params.ctx = .reference) {r : Reg} {i : Fin 15} (h : r.val ≠ i.val) :
    s.userCell? r ≠ some (s.cellOf i) := by
  have husr : ∀ (m : Mode) (i j : Fin 15), home m i = .usr j → i = j := by
    intro m
    cases m <;> decide
  unfold State.userCell?
  split
  · rw [userCellOf_reference hctx, cellOf_reference hctx]
    intro e
    exact h (congrArg Fin.val (husr _ _ _ (Option.some.inj e).symm)).symm
  · exact nofun

/-- The bank that a register of the list is loaded in (R371). -/
theorem loadCell?_of_mem {i : Fin 15} (h : a.list.getLsbD i.val = true) :
    loadCell? a s i.castSucc = some (if a.s = true ∧ ¬movesPc a then s.userCellOf i else s.cellOf i) := by
  have hbank : (a.s && !listHasPc a) = true ↔ a.s = true ∧ ¬movesPc a := by
    have hne : a.list ≠ 0 := list_ne_zero h
    simp only [listHasPc, movesPc, hne, or_false, Bool.and_eq_true, Bool.not_eq_true', Bool.not_eq_true]
  rw [apply_ite some]
  exact if_congr hbank (userCell?_of_lt i.isLt) (cell?_of_lt i.isLt)

/-- A base that is not in the list is none of the registers that LDM loads; if the User bank is loaded, in the reference context. -/
theorem loadAvoids_base (hn : a.n.val < 15) (hlist : a.list.getLsbD a.n.val = false)
    (hctx : a.s = true → ¬movesPc a → s.params.ctx = .reference) {r : Reg} (hr : r ∈ blockRegs a) :
    LoadAvoids a s (s.cellOf ⟨a.n.val, hn⟩) r := by
  by_cases hpc : r = Reg.pc
  · rw [hpc]
    exact loadAvoids_pc _ _ _
  have hmem : a.list.getLsbD r.val = true := mem_listRegs.mp (mem_listRegs_of_mem_blockRegs hr hpc)
  have hne : r ≠ a.n := by
    rintro rfl
    rw [hmem] at hlist
    cases hlist
  unfold LoadAvoids
  split
  · rename_i huser
    have hs : a.s = true ∧ a.list.getLsbD 15 = false := by simpa [listHasPc] using huser
    obtain ⟨hs, hpc15⟩ := hs
    have hmoves : ¬movesPc a := not_or.mpr ⟨by rw [hpc15]; exact nofun, list_ne_zero hmem⟩
    exact userCell?_ne_cellOf (hctx hs hmoves) fun e => hne (Fin.ext e)
  · exact fun e => hne (cell?_injective e (cell?_of_lt hn))

end

/-! ### LDM -/

/-- The state of LDM before its registers are loaded: the words are read and the base is written back. -/
def ldmBase (a : Mode4) (s : State) (start : Word) : State :=
  blockWriteBack a (blockWbAddr a (s.reg a.n)) (s.askWords start (blockRegs a).length)

theorem ldmBase_params (a : Mode4) (s : State) (start : Word) : (ldmBase a s start).params = s.params := by simp [ldmBase]

theorem ldmBase_cpsr (a : Mode4) (s : State) (start : Word) : (ldmBase a s start).cpsr = s.cpsr := by simp [ldmBase]

theorem ldmBase_spsr (a : Mode4) (s : State) (start : Word) : (ldmBase a s start).spsr = s.spsr := by simp [ldmBase]

/-- The base that is written back, before the registers are loaded. -/
theorem ldmBase_base {a : Mode4} (s : State) (start : Word) (hw : a.w = true) (hn : a.n.val < 15) :
    (ldmBase a s start).regs.get (s.cellOf ⟨a.n.val, hn⟩) = blockWbAddr a (s.reg a.n) := by
  rw [ldmBase, blockWriteBack, if_pos hw]
  exact setReg_regs_get_self (cell?_of_lt hn) _

/-- The state after LDM. -/
def ldmState (a : Mode4) (s : State) (start : Word) : State := (loads a s start).foldl (loadOne a) (ldmBase a s start)

theorem execLdm_pass {a : Mode4} {s : State} (hreg : s.params.unpred = .compute ∨ regularLdm a s)
    (hstart : s.params.misalign = .arm7tdmi ∨ (blockStart a (s.reg a.n)).extractLsb' 0 2 = 0) :
    execLdm a s = .next (ldmState a s (alignWord (blockStart a (s.reg a.n)))) := by
  rw [ldmState, ← zip_loadWords]
  exact (guardUnpred_pass _ (hreg.imp_right ldmChecks_none)).trans (guardAligned_pass _ _ _ _ (hstart.imp_right misaligned_word))

/-- How many words LDM reads. -/
theorem blockRegs_length (a : Mode4) : (blockRegs a).length = if a.list = 0 then 1 else rank a.list 16 := by
  unfold blockRegs
  split
  · rfl
  · exact listRegs_length _

theorem loadOne_draws (a : Mode4) (s : State) (iv : Reg × Word) : (loadOne a s iv).draws = s.draws := by
  unfold loadOne
  split <;> split <;> simp

section
variable {a : Mode4} (s : State) (start : Word)

theorem ldmState_draws : (ldmState a s start).draws = s.draws :=
  (foldl_loadOne_field State.draws a (loadOne_draws a) _ _).trans (by simp [ldmBase])

theorem ldmState_bus_given (h : s.params.mem = .given) :
    (ldmState a s start).bus = wordReads s.bus start (if a.list = 0 then 1 else rank a.list 16) := by
  rw [ldmState, foldl_loadOne_field State.bus a (loadOne_bus a), ldmBase, blockWriteBack_bus, askWords_bus, busAs_given h,
    blockRegs_length]

/-- Each register of the list holds its word. -/
theorem ldmState_loaded {i : Fin 15} (h : a.list.getLsbD i.val = true) :
    (ldmState a s start).regs.get (if a.s = true ∧ ¬movesPc a then s.userCellOf i else s.cellOf i)
      = blockWord s start (rank a.list i.val) := by
  have hblock : i.castSucc ∈ blockRegs a := by
    rw [blockRegs_of_ne (list_ne_zero h)]
    exact mem_listRegs.mpr h
  have hcell := (loadCell?_congr a (ldmBase_params a s start) (ldmBase_cpsr a s start) i.castSucc).trans (loadCell?_of_mem h)
  exact foldl_loadOne_loaded (Fin.castSucc_lt_last i).ne _ (loads_sorted a s start) (List.mem_map.mpr ⟨_, hblock, rfl⟩) _ hcell

/-- No load overwrites the base that is written back. -/
theorem ldmState_base (hw : a.w = true) (hn : a.n.val < 15) (hlist : a.list.getLsbD a.n.val = false)
    (hctx : a.s = true → ¬movesPc a → s.params.ctx = .reference) :
    (ldmState a s start).regs.get (s.cellOf ⟨a.n.val, hn⟩) = blockWbAddr a (s.reg a.n) := by
  rw [ldmState, foldl_loadOne_regs a _ _ (loads_sorted a s start)]
  · exact ldmBase_base s start hw hn
  · exact fun iv hiv => (loadAvoids_base hn hlist hctx (mem_loads hiv)).congr (ldmBase_params a s start) (ldmBase_cpsr a s start)

/-- Where r15 is transferred, its load ends LDM, in a mode with the SPSR that the mode had before. -/
theorem ldmState_of_movesPc (h : movesPc a) :
    ∃ u : State, ldmState a s start = loadOne a u (Reg.pc, blockWord s start (rank a.list 15)) ∧ u.exc? = s.exc? ∧ u.cpsr = s.cpsr
      ∧ u.spsr = s.spsr := by
  obtain ⟨regs, e⟩ := foldl_loads_of_movesPc h s start (ldmBase a s start)
  exact ⟨_, e, exc?_congr (ldmBase_params a s start) (congrArg _ (ldmBase_cpsr a s start)), ldmBase_cpsr a s start,
    ldmBase_spsr a s start⟩

/-- Where r15 is not transferred, the loads write the general registers only. -/
theorem ldmState_of_not_movesPc (h : ¬movesPc a) :
    (ldmState a s start).cpsr = s.cpsr ∧ (ldmState a s start).pc = (ldmBase a s start).pc
      ∧ (ldmState a s start).counter = (ldmBase a s start).counter := by
  obtain ⟨regs, e⟩ := foldl_loads_of_not_movesPc h s start (ldmBase a s start)
  rw [ldmState, e]
  exact ⟨ldmBase_cpsr a s start, rfl, rfl⟩

end

/-- Settles O52: the checks pass, and the state after the reads, the write-back and the loads is `ldmState`; r15 is loaded last. -/
theorem loadMultiple : Obligations.LoadMultiple := by
  intro c a s hasPc hreg start aligned word hstart
  have hexec : execLdm a s = .next (ldmState a s aligned) := execLdm_pass hreg hstart
  have hframe := frame_ldm c hexec
  refine ⟨_, hexec, mem_ldm hexec, hframe.spsr rfl, ldmState_draws s aligned, hframe.bus, ldmState_bus_given s aligned,
    fun bus n => ⟨rfl, wordReads_succ bus aligned n⟩, fun i hi => ldmState_loaded s aligned hi,
    fun hn hw hlist hctx => ldmState_base s aligned hw hn hlist hctx, fun h => ?_, fun h hs => ?_, fun m h hs hm => ?_,
    fun h => ?_, fun h hbase => ?_, fun h hw hn => ?_⟩
  · obtain ⟨u, e, -⟩ := ldmState_of_movesPc s aligned h
    rw [e]
    exact loadOne_pc_counter _
  · obtain ⟨u, e, hexc, hcpsr, -⟩ := ldmState_of_movesPc s aligned h
    rw [e, loadOne_pc_plain (hs.imp_right hexc.trans)]
    exact ⟨rfl, hcpsr⟩
  · obtain ⟨u, e, hexc, -, hspsr⟩ := ldmState_of_movesPc s aligned h
    obtain ⟨-, hcpsr, hpc⟩ := loadOne_pc_restore hs (hexc.trans hm) (word 15)
    rw [hspsr] at hcpsr hpc
    rw [e]
    exact ⟨hcpsr, hpc⟩
  · obtain ⟨hcpsr, -⟩ := ldmState_of_not_movesPc s aligned h
    exact hcpsr
  · obtain ⟨-, hpc, hcounter⟩ := ldmState_of_not_movesPc s aligned h
    obtain ⟨hpc', hcounter'⟩ := blockWriteBack_of_not (s := s.askWords aligned (blockRegs a).length) hbase (blockWbAddr a (s.reg a.n))
    exact ⟨hpc.trans hpc', hcounter.trans hcounter'⟩
  · obtain ⟨-, hpc, hcounter⟩ := ldmState_of_not_movesPc s aligned h
    rw [hpc, hcounter, ldmBase, blockWriteBack_pc hw hn, hn]
    exact ⟨rfl, rfl⟩

end Sys2Proof.Proofs
end

section
/-! The data-processing instructions: results (O32) and flags (O33, O34, O35), the exception return (O36), and the return from a trap
(O60). -/

namespace Sys2Proof.Proofs

open Sys2Proof Sys2Proof.Machine Sys2Proof.Laws

/-! ### The add with carry of R231, on words and on integers -/

/-- The C flag as a summand (R231). -/
def carryIn (c : Bool) : Nat := if c = true then 1 else 0

/-- The word of an exact signed result `r`, with a carry; V is that `r` does not fit (R231). -/
def exactResult (carry : Bool) (r : Int) : AluResult :=
  ⟨BitVec.ofInt 32 r, carry, decide ((BitVec.ofInt 32 r).toInt ≠ r)⟩

section
variable (x y : Word) (c : Bool)

theorem addWithCarry_value_add : (addWithCarry x y false).value = x + y := by
  simp [addWithCarry_value]

/-- A subtraction with borrow is an addition of the complement (R246). -/
theorem addWithCarry_value_borrow : (addWithCarry x (~~~y) c).value = x - y - (1 - if c = true then 1 else 0) := by
  rw [addWithCarry_value, BitVec.not_eq_neg_add]
  change x + (-y - (1 : Word)) + _ = _
  ring

theorem addWithCarry_value_sub : (addWithCarry x (~~~y) true).value = x - y := by
  simp [addWithCarry_value_borrow]

theorem addWithCarry_exact :
    addWithCarry x y c = exactResult (decide (2 ^ 32 ≤ x.toNat + y.toNat + carryIn c)) (x.toInt + y.toInt + carryIn c) := by
  have hvalue : (addWithCarry x y c).value = BitVec.ofInt 32 (x.toInt + y.toInt + carryIn c) := by
    rw [addWithCarry_value, BitVec.ofInt_add, BitVec.ofInt_add, BitVec.ofInt_toInt, BitVec.ofInt_toInt]
    cases c <;> rfl
  have hoverflow := addWithCarry_overflow x y c
  have hcin : ((if c = true then 1 else 0 : Int)) = carryIn c := by cases c <;> rfl
  rw [hcin, hvalue] at hoverflow
  calc addWithCarry x y c
      = ⟨(addWithCarry x y c).value, (addWithCarry x y c).c, (addWithCarry x y c).v⟩ := rfl
    _ = _ := by
      rw [hvalue, addWithCarry_carry, hoverflow]
      rfl

/-- No borrow of a subtraction is the carry of the addition of the complement (R231). -/
theorem addWithCarry_not_exact :
    addWithCarry x (~~~y) c
      = exactResult (decide (y.toNat + (1 - carryIn c) ≤ x.toNat)) (x.toInt - y.toInt - (1 - carryIn c : Nat)) := by
  have hcin : carryIn c ≤ 1 := by cases c <;> decide
  have hy := y.isLt
  rw [addWithCarry_exact, toInt_not_word, BitVec.toNat_not]
  congr 1
  · rw [decide_eq_decide]
    omega
  · omega

theorem addWithCarry_exact_add :
    addWithCarry x y false = exactResult (decide (2 ^ 32 ≤ x.toNat + y.toNat)) (x.toInt + y.toInt) := by
  simpa [carryIn] using addWithCarry_exact x y false

theorem addWithCarry_exact_sub :
    addWithCarry x (~~~y) true = exactResult (decide (y.toNat ≤ x.toNat)) (x.toInt - y.toInt) := by
  simpa [carryIn] using addWithCarry_not_exact x y true

theorem ofInt_add_toInt : BitVec.ofInt 32 (x.toInt + y.toInt) = x + y := by
  rw [BitVec.ofInt_add, BitVec.ofInt_toInt, BitVec.ofInt_toInt]

theorem ofInt_sub_toInt : BitVec.ofInt 32 (x.toInt - y.toInt) = x - y := by
  rw [Int.sub_eq_add_neg, BitVec.ofInt_add, BitVec.ofInt_neg, BitVec.ofInt_toInt, BitVec.ofInt_toInt, BitVec.sub_eq_add_neg]

end

/-! ### The shared handlers, behind their checks -/

theorem avoidsPc_mono {used used' : List Reg} {o : ShifterOperand} (hsub : used' ⊆ used) (h : avoidsPc used o) : avoidsPc used' o := by
  cases o with
  | shiftReg t rs m =>
    obtain ⟨hrs, hm, hused⟩ := h
    exact ⟨hrs, hm, fun hpc => hused (hsub hpc)⟩
  | imm rot imm8 => trivial
  | shiftImm t amt m => trivial

theorem firstReason_append {cs : List (UnpredReason × Bool)} (h : firstReason cs = none) (rest : List (UnpredReason × Bool)) :
    firstReason (cs ++ rest) = firstReason rest := by
  have hnone : cs.find? (fun p => p.2) = none := Option.map_eq_none_iff.mp h
  rw [firstReason, List.find?_append, hnone, Option.none_or, firstReason]

/-- The operands of a handler are no UNPREDICTABLE case, or such a case computes. -/
abbrev Regular (used : List Reg) (o : ShifterOperand) (s : State) : Prop := s.params.unpred = .compute ∨ avoidsPc used o

/-- The state after the flags and the value of `r` are written (R232). -/
def flagged (s : State) (d : Reg) (r : AluResult) : State :=
  (s.withFlags (r.value.getLsbD 31) (decide (r.value = 0)) r.c r.v).setReg d r.value

section
variable {op : AluOp} {n : Option Reg} {d : Reg} {o : ShifterOperand} {s : State} {r : Word} {c v : Bool}

theorem Regular.mono {used used' : List Reg} (h : Regular used o s) (hsub : used' ⊆ used) : Regular used' o s :=
  h.imp_right (avoidsPc_mono hsub)

/-- With no UNPREDICTABLE case among the operands, only the checks behind those of the operands are left. -/
theorem guardUnpred_shifterChecks_append {used : List Reg} (h : Regular used o s) (rest : List (UnpredReason × Bool)) (k : Outcome) :
    guardUnpred (shifterChecks used o ++ rest) s k = guardUnpred rest s k := by
  obtain hcompute | havoids := h
  · rw [guardUnpred_compute _ _ _ hcompute, guardUnpred_compute _ _ _ hcompute]
  · rw [guardUnpred, guardUnpred, firstReason_append (shifterChecks_none used o havoids)]

theorem dpPlain_pass (h : Regular (n.toList ++ [d]) o s) (hr : (aluResult op n o s).value = r) :
    dpPlain op n d o s = .next (s.setReg d r) := by
  rw [dpPlain, hr]
  exact guardUnpred_pass _ (h.imp_right (shifterChecks_none _ o))

theorem dpFlags_pass {r : AluResult} (h : Regular (n.toList ++ [d]) o s) (hd : d ≠ Reg.pc) (hr : aluResult op n o s = r) :
    dpFlags op n d o s = .next (flagged s d r) := by
  rw [dpFlags, guardUnpred_shifterChecks_append h, if_neg hd, hr, commitFlags_eq]
  exact guardUnpred_none _ _ _ (by simp [firstReason_cons, firstReason_nil, hd])

theorem dpCompare_pass {n : Reg} (h : Regular [n] o s) (hr : aluResult op (some n) o s = ⟨r, c, v⟩) :
    dpCompare op n o s = .next (s.withFlags (r.getLsbD 31) (decide (r = 0)) c v) := by
  rw [dpCompare, hr, commitFlags_eq]
  exact guardUnpred_pass _ (h.imp_right (shifterChecks_none _ o))

/-- With d = 15, the exception return, behind the check for an SPSR (R233). -/
theorem dpFlags_pc (h : Regular (n.toList ++ [Reg.pc]) o s) (hr : (aluResult op n o s).value = r) :
    dpFlags op n Reg.pc o s = guardUnpred [(.spsrAccessNoSPSR, !s.hasSpsr)] s (.next (returnFromException r s)) := by
  rw [dpFlags, guardUnpred_shifterChecks_append h, if_pos rfl, hr]
  rfl

end

/-! ### Results and flags -/

/-- Settles O32: each of the forms is `dpPlain`, and the sums and differences are the values of `addWithCarry`. -/
theorem dataProcessingResults : Obligations.DataProcessingResults := by
  intro c n d o s h a b cin i r hi
  have hn : Regular [d] o s := Regular.mono h (List.subset_cons_self _ _)
  refine (?_ : ∀ p ∈ (_ : List (Instr × Word)), exec p.1 s = .next (s.setReg d p.2)) (i, r) hi
  simp only [List.forall_mem_cons]
  exact ⟨dpPlain_pass h rfl, dpPlain_pass h rfl, dpPlain_pass h rfl, dpPlain_pass h rfl, dpPlain_pass hn rfl, dpPlain_pass hn rfl,
    dpPlain_pass h (addWithCarry_value_add a b), dpPlain_pass h (addWithCarry_value a b s.cpsr.c),
    dpPlain_pass h (addWithCarry_value_sub a b), dpPlain_pass h (addWithCarry_value_borrow a b s.cpsr.c),
    dpPlain_pass h (addWithCarry_value_sub b a), dpPlain_pass h (addWithCarry_value_borrow b a s.cpsr.c), List.forall_mem_nil _⟩

/-- Settles O33: each of the forms is `dpFlags`, and its operation gives the shifter carry and V back. -/
theorem logicalFlags : Obligations.LogicalFlags := by
  intro c n d o s hd h a b i r hi
  have hn : Regular [d] o s := Regular.mono h (List.subset_cons_self _ _)
  refine (?_ : ∀ p ∈ (_ : List (Instr × Word)),
    exec p.1 s = .next (flagged s d ⟨p.2, (resolveShifter o s).carry, s.cpsr.v⟩)) (i, r) hi
  simp only [List.forall_mem_cons]
  exact ⟨dpFlags_pass h hd rfl, dpFlags_pass h hd rfl, dpFlags_pass h hd rfl, dpFlags_pass h hd rfl, dpFlags_pass hn hd rfl,
    dpFlags_pass hn hd rfl, List.forall_mem_nil _⟩

/-- Settles O34: each of the forms is `dpFlags`, and its operation is the exact result of `addWithCarry`. -/
theorem arithmeticFlags : Obligations.ArithmeticFlags := by
  intro c n d o s hd h a b cin i carry r hi
  refine (?_ : ∀ p ∈ (_ : List (Instr × Bool × Int)),
    exec p.1 s = .next (flagged s d (exactResult p.2.1 p.2.2))) (i, carry, r) hi
  simp only [List.forall_mem_cons]
  exact ⟨dpFlags_pass h hd (addWithCarry_exact_add a b), dpFlags_pass h hd (addWithCarry_exact a b s.cpsr.c),
    dpFlags_pass h hd (addWithCarry_exact_sub a b), dpFlags_pass h hd (addWithCarry_not_exact a b s.cpsr.c),
    dpFlags_pass h hd (addWithCarry_exact_sub b a), dpFlags_pass h hd (addWithCarry_not_exact b a s.cpsr.c), List.forall_mem_nil _⟩

/-- Settles O35: each of the forms is `dpCompare`; a difference is zero exactly where the operands are equal. -/
theorem compareFlags : Obligations.CompareFlags := by
  intro c n o s h a b sc
  have hxor : decide (a ^^^ b = 0) = decide (a = b) := decide_eq_decide.mpr BitVec.xor_eq_zero_iff
  have hsub : decide (a - b = 0) = decide (a = b) := decide_eq_decide.mpr sub_eq_zero
  refine ⟨dpCompare_pass h rfl, ?_, ?_, ?_⟩
  · rw [← hxor]
    exact dpCompare_pass h rfl
  · rw [← hsub, ← ofInt_sub_toInt]
    exact dpCompare_pass h (addWithCarry_exact_sub a b)
  · rw [← ofInt_add_toInt]
    exact dpCompare_pass h (addWithCarry_exact_add a b)

/-! ### The exception return (R233) -/

section
variable {s : State} {m : ExcMode}

theorem returnFromException_arm (hm : s.exc? = some m) (ht : (s.spsr.get m).t = false) (v : Word) :
    returnFromException v s = { s with cpsr := s.spsr.get m, pc := v &&& 0xFFFFFFFC, counter := 3 } := by
  rw [returnFromException, currentSpsr_some hm]
  exact if_neg (Bool.eq_false_iff.mp ht)

/-- The hand-over to THUMB state: the restored CPSR has T = 1 already (log 8). -/
theorem returnFromException_thumb (hm : s.exc? = some m) (ht : (s.spsr.get m).t = true) (v : Word) :
    returnFromException v s = { s with cpsr := s.spsr.get m, pc := v &&& 0xFFFFFFFE, counter := 3 } := by
  rw [returnFromException, currentSpsr_some hm]
  refine (if_pos ht).trans ?_
  rw [State.exitThumb, withT_self ht]

theorem returnFromException_none (h : s.exc? = none) (v : Word) : returnFromException v s = s.writePc v := by
  rw [returnFromException, currentSpsr_none h]

theorem guardUnpred_hasSpsr (hm : s.exc? = some m) (k : Outcome) : guardUnpred [(.spsrAccessNoSPSR, !s.hasSpsr)] s k = k :=
  guardUnpred_none _ _ _ (by simp [firstReason_cons, firstReason_nil, hasSpsr_eq, hm])

end

/-- Settles O36: each of the forms is `returnFromException` behind the check for an SPSR. -/
theorem dataProcessingReturn : Obligations.DataProcessingReturn := by
  intro c n o s h a b cin i r hi
  have hn : Regular [Reg.pc] o s := Regular.mono h (List.subset_cons_self _ _)
  have hexec : exec i s = guardUnpred [(.spsrAccessNoSPSR, !s.hasSpsr)] s (.next (returnFromException r s)) := by
    refine (?_ : ∀ p ∈ (_ : List (Instr × Word)),
      exec p.1 s = guardUnpred [(.spsrAccessNoSPSR, !s.hasSpsr)] s (.next (returnFromException p.2 s))) (i, r) hi
    simp only [List.forall_mem_cons]
    exact ⟨dpFlags_pc h rfl, dpFlags_pc h rfl, dpFlags_pc h rfl, dpFlags_pc h rfl, dpFlags_pc hn rfl, dpFlags_pc hn rfl,
      dpFlags_pc h (addWithCarry_value_add a b), dpFlags_pc h (addWithCarry_value a b s.cpsr.c),
      dpFlags_pc h (addWithCarry_value_sub a b), dpFlags_pc h (addWithCarry_value_borrow a b s.cpsr.c),
      dpFlags_pc h (addWithCarry_value_sub b a), dpFlags_pc h (addWithCarry_value_borrow b a s.cpsr.c), List.forall_mem_nil _⟩
  rw [hexec]
  refine ⟨fun m hm ht => ?_, fun m hm ht => ?_, fun hm hp => ?_, fun hm hp => ?_⟩
  · rw [guardUnpred_hasSpsr hm, returnFromException_arm hm ht]
  · rw [guardUnpred_hasSpsr hm, returnFromException_thumb hm ht]
  · rw [guardUnpred_compute _ _ _ hp, returnFromException_none hm]
    rfl
  · exact guardUnpred_some _ _ _ _ hp (by simp [firstReason_cons, hasSpsr_eq, hm])

/-! ### The return from a trap (R434) -/

section
variable {i : Instr} {m : ExcMode} {link vector : Word} {b : Bool} {s t : State}

/-- A trap with a reference entry takes an exception, and its link is the address of the next instruction (R433). -/
theorem trap_takesException {c : Cond} {comment : BitVec 24} {bits : BitVec 28}
    (hi : (i = .swi c comment ∧ s.params.swiEntry = .reference) ∨ (i = .undefined c bits ∧ s.params.undefEntry = .reference))
    (ht : exec i s = .next t) : ∃ m vector, t = takeException m (s.pc - 8 + 4) vector false s := by
  obtain ⟨rfl, hp⟩ | ⟨rfl, hp⟩ := hi
  · obtain ⟨-, e⟩ | ⟨hgiven, -⟩ := execSwi_next ht
    · exact ⟨_, _, e⟩
    · rw [hp] at hgiven
      cases hgiven
  · obtain ⟨-, e⟩ | ⟨hgiven, -⟩ := execUndefined_next ht
    · exact ⟨_, _, e⟩
    · rw [hp] at hgiven
      cases hgiven

theorem takeException_modeCode : (takeException m link vector b s).cpsr.modeCode = m.code := by
  obtain ⟨hmode, -⟩ := entry_fields s.cpsr m b
  exact hmode

theorem takeException_lr : (takeException m link vector b s).reg Reg.lr = link := by
  rw [reg_of_lt _ Reg.lr (by decide), State.cellOf, takeException_modeCode]
  exact get_set_self _ _ _

theorem takeException_exc? : (takeException m link vector b s).exc? = spsrIn s.params.ctx m.code := by
  rw [State.exc?, takeException_modeCode, takeException_params]

theorem spsr_get_set_self (p : SpsrFile) (m : ExcMode) (v : Psr) : (p.set m v).get m = v := by
  cases m <;> rfl

/-- In the reference context every mode that an exception enters has an SPSR (R440). -/
theorem spsrIn_reference (m : ExcMode) : spsrIn .reference m.code ≠ none := by
  cases m <;> decide

/-- The SPSR of the mode entered, where it has one, holds the CPSR of before. -/
theorem takeException_saves (h : s.params.ctx = .reference ∨ (takeException m link vector b s).exc? ≠ none) :
    ∃ m', (takeException m link vector b s).exc? = some m' ∧ (takeException m link vector b s).spsr.get m' = s.cpsr := by
  rw [takeException_exc?] at h ⊢
  have hsome : spsrIn s.params.ctx m.code ≠ none := h.elim (fun href => href ▸ spsrIn_reference m) id
  obtain ⟨m', hm⟩ := Option.ne_none_iff_exists'.mp hsome
  refine ⟨m', hm, ?_⟩
  rw [takeException_spsr, State.savedSpsr, hm]
  exact spsr_get_set_self _ _ _

end

section
variable {t u : State} (hctx : u.params.ctx = t.params.ctx) (hcpsr : u.cpsr = t.cpsr)
include hctx hcpsr

theorem reg_congr (hregs : u.regs = t.regs) {i : Reg} (h : i.val < 15) : u.reg i = t.reg i := by
  rw [reg_of_lt u i h, reg_of_lt t i h, State.cellOf, State.cellOf, hctx, hcpsr, hregs]

theorem exc?_congr_ctx : u.exc? = t.exc? := by
  rw [State.exc?, State.exc?, hctx, hcpsr]

end

/-- Settles O60: lr is the link and the SPSR is the CPSR of the trapping instruction, whose T is 0, so the exception return is that of ARM
state. -/
theorem trapReturnRestoresTheCaller : Obligations.TrapReturnRestoresTheCaller := by
  intro i c c' comment bits s t u hi hentered hthumb ht hus hregs hcpsr hspsr
  have hctx : u.params.ctx = t.params.ctx := by
    rw [hus, (exec_kept i s t ht).p]
  obtain ⟨m, vector, rfl⟩ := trap_takesException hi ht
  obtain ⟨m', hm, hsaved⟩ := takeException_saves hentered
  have hlr : u.reg Reg.lr = s.pc - 8 + 4 := (reg_congr hctx hcpsr hregs (by decide)).trans takeException_lr
  have hexc : u.exc? = some m' := (exc?_congr_ctx hctx hcpsr).trans hm
  have hget : u.spsr.get m' = s.cpsr := by
    rw [hspsr, hsaved]
  have hbit : (u.spsr.get m').t = false := by
    rw [hget]
    exact hthumb
  have hexec : exec (.movs c' Reg.pc (.shiftImm .lsl 0 Reg.lr)) u
      = guardUnpred [(.spsrAccessNoSPSR, !u.hasSpsr)] u (.next (returnFromException (s.pc - 8 + 4) u)) :=
    dpFlags_pc (.inr trivial) hlr
  rw [hexec, guardUnpred_hasSpsr hexc, returnFromException_arm hexc hbit, hget]

end Sys2Proof.Proofs
end

section
/-! The multiplies: results (O38, O40) and flags (O39, O41), and the operand choices on which multiplies and swaps halt (O42). -/

namespace Sys2Proof.Proofs

open Sys2Proof Sys2Proof.Machine Sys2Proof.Laws

/-! ### Products on words and on numbers (R282-R287) -/

theorem ofNat_mul_toNat (x y : Word) : BitVec.ofNat 32 (x.toNat * y.toNat) = x * y := by
  rw [BitVec.ofNat_mul, BitVec.ofNat_toNat, BitVec.ofNat_toNat, BitVec.setWidth_eq, BitVec.setWidth_eq]

theorem ofNat_mul_add_toNat (x y z : Word) : BitVec.ofNat 32 (x.toNat * y.toNat + z.toNat) = x * y + z := by
  rw [BitVec.ofNat_add, ofNat_mul_toNat, BitVec.ofNat_toNat, BitVec.setWidth_eq]

section
variable (dLo dHi m rs : Reg) (s : State)

theorem unsignedProduct_eq_ofNat : unsignedProduct m rs s = BitVec.ofNat 64 ((s.reg m).toNat * (s.reg rs).toNat) := by
  rw [BitVec.ofNat_mul, BitVec.ofNat_toNat, BitVec.ofNat_toNat]
  rfl

/-- A sign extension is the 64-bit word of the signed value. -/
theorem signedProduct_eq_ofInt : signedProduct m rs s = BitVec.ofInt 64 ((s.reg m).toInt * (s.reg rs).toInt) := by
  rw [BitVec.ofInt_mul]
  rfl

theorem toNat_accumulator : (accumulator dLo dHi s).toNat = (s.reg dHi).toNat * 2 ^ 32 + (s.reg dLo).toNat := by
  rw [accumulator, BitVec.toNat_append, ← Nat.shiftLeft_add_eq_or_of_lt (s.reg dLo).isLt, Nat.shiftLeft_eq]

theorem unsignedProduct_add_accumulator :
    unsignedProduct m rs s + accumulator dLo dHi s
      = BitVec.ofNat 64 ((s.reg m).toNat * (s.reg rs).toNat + ((s.reg dHi).toNat * 2 ^ 32 + (s.reg dLo).toNat)) := by
  rw [BitVec.ofNat_add, ← unsignedProduct_eq_ofNat, ← toNat_accumulator, BitVec.ofNat_toNat, BitVec.setWidth_eq]

theorem signedProduct_add_accumulator :
    signedProduct m rs s + accumulator dLo dHi s
      = BitVec.ofInt 64 ((s.reg m).toInt * (s.reg rs).toInt
          + ((s.reg dHi).toNat * 2 ^ 32 + (s.reg dLo).toNat : Nat)) := by
  rw [BitVec.ofInt_add, ← signedProduct_eq_ofInt, ← toNat_accumulator, BitVec.ofInt_natCast, BitVec.ofNat_toNat, BitVec.setWidth_eq]

end

/-! ### The check of the operands (R288) -/

theorem firstReason_mulChecks (regs : List Reg) (d m : Reg) :
    firstReason (mulChecks regs d m) = if Reg.pc ∈ regs ∨ d = m then some .mulOperands else none := by
  simp [mulChecks, firstReason_cons, firstReason_nil]

theorem firstReason_mulLongChecks (dLo dHi m rs : Reg) :
    firstReason (mulLongChecks dLo dHi m rs)
      = if Reg.pc ∈ [dHi, dLo, m, rs] ∨ dHi = dLo ∨ dHi = m ∨ dLo = m then some .mulOperands else none := by
  simp only [mulLongChecks, firstReason_cons, firstReason_nil, Bool.or_eq_true, List.contains_iff_mem, beq_iff_eq, or_assoc]

theorem mulOperands_iff (regs : List Reg) (d m : Reg) :
    firstReason (mulChecks regs d m) = some .mulOperands ↔ Reg.pc ∈ regs ∨ d = m := by
  rw [firstReason_mulChecks, Option.ite_none_right_eq_some, and_iff_left rfl]

theorem mulOperands_long_iff (dLo dHi m rs : Reg) :
    firstReason (mulLongChecks dLo dHi m rs) = some .mulOperands
      ↔ Reg.pc ∈ [dHi, dLo, m, rs] ∨ dHi = dLo ∨ dHi = m ∨ dLo = m := by
  rw [firstReason_mulLongChecks, Option.ite_none_right_eq_some, and_iff_left rfl]

theorem mulChecks_none {regs : List Reg} {d m : Reg} (h : Reg.pc ∉ regs ∧ d ≠ m) : firstReason (mulChecks regs d m) = none := by
  rw [firstReason_mulChecks, if_neg (not_or.mpr h)]

theorem mulLongChecks_none {dLo dHi m rs : Reg} (h : Reg.pc ∉ [dHi, dLo, m, rs] ∧ dHi ≠ dLo ∧ dHi ≠ m ∧ dLo ≠ m) :
    firstReason (mulLongChecks dLo dHi m rs) = none := by
  rw [firstReason_mulLongChecks, if_neg]
  simpa only [not_or] using h

/-- What is no case of MLA is no case of MUL, which has no accumulate register. -/
theorem mulChecks_none_of_mla {d m rs acc : Reg} (h : Reg.pc ∉ [d, m, rs, acc] ∧ d ≠ m) :
    firstReason (mulChecks [d, m, rs] d m) = none :=
  mulChecks_none (h.imp_left fun hacc hpc => hacc (List.mem_append_left [acc] hpc))

/-! ### The flags (R281) -/

theorem withFlags_setReg (s : State) (d : Reg) (r : Word) (n z c v : Bool) :
    (s.withFlags n z c v).setReg d r = (s.setReg d r).withFlags n z c v := by
  unfold State.setReg
  split
  · rfl
  · rfl

/-- The flags of MULS and MLAS, in the terms of the statements. -/
theorem commitMul_eq (t : State) (r : Word) :
    t.commitMul r
      = { t.withFlags (r.getLsbD 31) (decide (r = 0)) (Config.mulFlagC t.draws) t.cpsr.v with draws := t.draws + 1 } := by
  rw [← msb_eq_bit31]
  rfl

/-- The flags of the long forms, in the terms of the statements. -/
theorem commitMulLong_eq (t : State) (r : BitVec 64) :
    t.commitMulLong r
      = { t.withFlags (r.getLsbD 63) (decide (r = 0)) (Config.mulFlagC t.draws) (Config.mulFlagV t.draws) with
          draws := t.draws + 1 } := by
  rw [← BitVec.msb_eq_getLsbD_last r]
  rfl

theorem commitMul_setReg (s : State) (d : Reg) (r : Word) :
    (s.setReg d r).commitMul r
      = { State.setReg (s.withFlags (r.getLsbD 31) (decide (r = 0)) (Config.mulFlagC s.draws) s.cpsr.v) d r with
          draws := s.draws + 1 } := by
  rw [commitMul_eq, withFlags_setReg, setReg_draws, setReg_cpsr]

theorem commitMulLong_setPair (s : State) (dLo dHi : Reg) (r : BitVec 64) :
    (s.setPair dLo dHi r).commitMulLong r
      = { State.setReg
            (State.setReg (s.withFlags (r.getLsbD 63) (decide (r = 0)) (Config.mulFlagC s.draws) (Config.mulFlagV s.draws))
              dLo (r.extractLsb' 0 32))
            dHi (r.extractLsb' 32 32) with draws := s.draws + 1 } := by
  rw [commitMulLong_eq, State.setPair, withFlags_setReg, withFlags_setReg, setReg_draws, setReg_draws]

/-! ### The handlers behind their check -/

section
variable {dLo dHi m rs : Reg} {s : State} {r result : BitVec 64}
  (h : s.params.unpred = .compute ∨ (Reg.pc ∉ [dHi, dLo, m, rs] ∧ dHi ≠ dLo ∧ dHi ≠ m ∧ dLo ≠ m)) (hr : result = r)
include h hr

theorem mulLong_pass : mulLong result dLo dHi m rs s = .next (s.setPair dLo dHi r) := by
  rw [mulLong, hr]
  exact guardUnpred_pass _ (h.imp_right mulLongChecks_none)

theorem mulLongFlags_pass : mulLongFlags result dLo dHi m rs s = .next ((s.setPair dLo dHi r).commitMulLong r) := by
  rw [mulLongFlags, hr]
  exact guardUnpred_pass _ (h.imp_right mulLongChecks_none)

end

/-! ### Results and flags -/

/-- Settles O38: the check passes, and a product of words is the word of the product. -/
theorem multiplyResults : Obligations.MultiplyResults := by
  intro c d m rs acc s h
  rw [ofNat_mul_toNat, ofNat_mul_add_toNat]
  exact ⟨guardUnpred_pass _ (h.imp_right mulChecks_none_of_mla), guardUnpred_pass _ (h.imp_right mulChecks_none)⟩

/-- Settles O39: as O38, and the flags are those of `commitMul`. -/
theorem multiplyFlags : Obligations.MultiplyFlags := by
  intro c d m rs acc s h i r hi
  refine ⟨Config.mulFlagC s.draws, ?_⟩
  rw [← commitMul_setReg]
  refine (?_ : ∀ p ∈ (_ : List (Instr × Word)), exec p.1 s = .next ((s.setReg d p.2).commitMul p.2)) (i, r) hi
  rw [ofNat_mul_toNat, ofNat_mul_add_toNat]
  simp only [List.forall_mem_cons]
  exact ⟨guardUnpred_pass _ (h.imp_right mulChecks_none_of_mla), guardUnpred_pass _ (h.imp_right mulChecks_none), List.forall_mem_nil _⟩

/-- Settles O40: each of the forms is `mulLong`, of the 64-bit word of the exact result. -/
theorem longMultiplyResults : Obligations.LongMultiplyResults := by
  intro c dLo dHi m rs s h u p acc i r hi
  refine (?_ : ∀ q ∈ (_ : List (Instr × BitVec 64)), exec q.1 s = .next (s.setPair dLo dHi q.2)) (i, r) hi
  simp only [List.forall_mem_cons]
  exact ⟨mulLong_pass h (unsignedProduct_eq_ofNat m rs s), mulLong_pass h (unsignedProduct_add_accumulator dLo dHi m rs s),
    mulLong_pass h (signedProduct_eq_ofInt m rs s), mulLong_pass h (signedProduct_add_accumulator dLo dHi m rs s), List.forall_mem_nil _⟩

/-- Settles O41: as O40, with `mulLongFlags`; the flags are those of `commitMulLong`. -/
theorem longMultiplyFlags : Obligations.LongMultiplyFlags := by
  intro c dLo dHi m rs s h u p acc i r hi
  refine ⟨Config.mulFlagC s.draws, Config.mulFlagV s.draws, ?_⟩
  rw [← commitMulLong_setPair]
  refine (?_ : ∀ q ∈ (_ : List (Instr × BitVec 64)),
    exec q.1 s = .next ((s.setPair dLo dHi q.2).commitMulLong q.2)) (i, r) hi
  simp only [List.forall_mem_cons]
  exact ⟨mulLongFlags_pass h (unsignedProduct_eq_ofNat m rs s), mulLongFlags_pass h (unsignedProduct_add_accumulator dLo dHi m rs s),
    mulLongFlags_pass h (signedProduct_eq_ofInt m rs s), mulLongFlags_pass h (signedProduct_add_accumulator dLo dHi m rs s),
    List.forall_mem_nil _⟩

/-! ### The halts under UNPRED = Fault (R288, R339) -/

section
variable {s : State} {r : UnpredReason}

/-- A handler that raises no such halt behind its checks halts with a reason exactly if that is the first check that holds. -/
theorem guardUnpred_halts_iff {cs : List (UnpredReason × Bool)} {k : Outcome} (hp : s.params.unpred = .fault)
    (hk : ∀ a, k ≠ .fault (.unpredictable r a)) :
    guardUnpred cs s k = .fault (.unpredictable r (s.pc - 8)) ↔ firstReason cs = some r := by
  constructor
  · intro h
    obtain hpass | ⟨r', hhalt, -, hfirst⟩ := guardUnpred_cases cs s k
    · exact absurd (hpass.symm.trans h) (hk _)
    · rw [hhalt] at h
      cases h
      exact hfirst
  · exact guardUnpred_some cs s k r hp

theorem next_ne_unpredictable (t : State) (a : Word) : (.next t : Outcome) ≠ .fault (.unpredictable r a) := nofun

theorem guardAligned_ne_unpredictable (n : Width) (ea : Word) (t : State) (a : Word) :
    guardAligned n ea s (.next t) ≠ .fault (.unpredictable r a) := by
  obtain h | ⟨h, -⟩ := guardAligned_cases n ea s (.next t)
  · rw [h]
    nofun
  · rw [h]
    nofun

end

theorem firstReason_swapChecks (d m n : Reg) :
    firstReason (swapChecks d m n)
      = if Reg.pc ∈ [n, d, m] then some .swapPC else if n = m ∨ n = d then some .swapBase else none := by
  simp [swapChecks, firstReason_cons, firstReason_nil, eq_comm (a := Reg.pc), or_assoc]

theorem swapPC_iff (d m n : Reg) : firstReason (swapChecks d m n) = some .swapPC ↔ Reg.pc ∈ [n, d, m] := by
  rw [firstReason_swapChecks]
  by_cases hpc : Reg.pc ∈ [n, d, m]
  · rw [if_pos hpc]
    exact iff_of_true rfl hpc
  · rw [if_neg hpc, Option.ite_none_right_eq_some]
    exact iff_of_false nofun hpc

theorem swapBase_iff (d m n : Reg) :
    firstReason (swapChecks d m n) = some .swapBase ↔ Reg.pc ∉ [n, d, m] ∧ (n = m ∨ n = d) := by
  rw [firstReason_swapChecks]
  by_cases hpc : Reg.pc ∈ [n, d, m]
  · rw [if_pos hpc]
    exact iff_of_false nofun fun h => h.1 hpc
  · rw [if_neg hpc, Option.ite_none_right_eq_some, and_iff_left rfl, and_iff_right hpc]

theorem swap_halts_iff {d m n : Reg} {s : State} {k : Outcome} (hp : s.params.unpred = .fault)
    (hk : ∀ r a, k ≠ .fault (.unpredictable r a)) :
    (guardUnpred (swapChecks d m n) s k = .fault (.unpredictable .swapPC (s.pc - 8)) ↔ Reg.pc ∈ [n, d, m])
    ∧ (guardUnpred (swapChecks d m n) s k = .fault (.unpredictable .swapBase (s.pc - 8))
        ↔ Reg.pc ∉ [n, d, m] ∧ (n = m ∨ n = d)) :=
  ⟨(guardUnpred_halts_iff hp (hk _)).trans (swapPC_iff d m n), (guardUnpred_halts_iff hp (hk _)).trans (swapBase_iff d m n)⟩

/-- Settles O42: every multiply and swap is its checks before an answer that is no such halt, so it halts with the reason of the first
check that holds. -/
theorem multiplyAndSwapUnpredictable : Obligations.MultiplyAndSwapUnpredictable := by
  intro c d m rs acc dLo dHi n s hp
  have hmul (regs : List Reg) (t) := (guardUnpred_halts_iff hp (next_ne_unpredictable t)).trans (mulOperands_iff regs d m)
  have hlong (t) := (guardUnpred_halts_iff hp (next_ne_unpredictable t)).trans (mulOperands_long_iff dLo dHi m rs)
  simp only [List.forall_mem_cons]
  exact ⟨⟨hmul _ _, hmul _ _, List.forall_mem_nil _⟩, ⟨hmul _ _, hmul _ _, List.forall_mem_nil _⟩,
    ⟨hlong _, hlong _, hlong _, hlong _, hlong _, hlong _, hlong _, hlong _, List.forall_mem_nil _⟩,
    ⟨swap_halts_iff hp fun _ => guardAligned_ne_unpredictable _ _ _, swap_halts_iff hp fun _ => next_ne_unpredictable _,
      List.forall_mem_nil _⟩⟩

end Sys2Proof.Proofs
end

section
/-! The branches (O54, O55), the entries of SWI and UNDEFINED (O58), and the block transfers that halt under UNPRED = Fault (O53). -/

namespace Sys2Proof.Proofs

open Sys2Proof Sys2Proof.Machine Sys2Proof.Laws

/-! ### B and BL (R361-R363) -/

/-- A PC write keeps an aligned address (R34). -/
theorem and_of_aligned {a : Word} (h : a.extractLsb' 0 2 = 0) : a &&& 0xFFFFFFFC = a := by
  have hmask : ∀ k : Fin 32, (0xFFFFFFFC : Word).getLsbD k.val = decide (2 ≤ k.val) := by decide
  have hlow : ∀ k, k < 2 → a.getLsbD k = false := fun k hk => by
    simpa [BitVec.getLsbD_extractLsb', hk] using congrArg (BitVec.getLsbD · k) h
  refine BitVec.eq_of_getLsbD_eq fun k hk => ?_
  rw [BitVec.getLsbD_and, hmask ⟨k, hk⟩]
  by_cases hk2 : k < 2
  · rw [hlow k hk2, Bool.false_and]
  · rw [decide_eq_true (show 2 ≤ k by omega), Bool.and_true]

theorem aligned_add_four_mul {a : Word} (h : a.extractLsb' 0 2 = 0) (x : Word) : (a + 4 * x).extractLsb' 0 2 = 0 := by
  have h4 : a.toNat % 4 = 0 := by simpa [BitVec.extractLsb'_toNat] using congrArg BitVec.toNat h
  apply BitVec.eq_of_toNat_eq
  simp only [BitVec.extractLsb'_toNat, BitVec.toNat_add, BitVec.toNat_mul, BitVec.reduceToNat, Nat.shiftRight_zero]
  omega

/-- The offset of R361 is 4 times the field. -/
theorem branchTarget_eq (imm24 : BitVec 24) (s : State) : branchTarget imm24 s = s.pc + 4 * imm24.signExtend 32 := by
  have hoffset : (imm24 ++ 0#2).signExtend 32 = 4 * imm24.signExtend 32 := by
    rw [BitVec.signExtend, BitVec.signExtend, BitVec.toInt_append_zero, BitVec.ofInt_mul]
    rfl
  rw [branchTarget, hoffset]

/-- Settles O54: from an aligned pc the target is aligned, so the PC write leaves it as it is; the link is A + 4 = pc - 4. -/
theorem branches : Obligations.Branches := by
  intro c imm24 s hpc target
  have htarget : branchTarget imm24 s &&& 0xFFFFFFFC = target := by
    rw [branchTarget_eq]
    exact and_of_aligned (aligned_add_four_mul hpc _)
  have hlink : s.pc - 4 = s.pc - 8 + 4 := by bv_omega
  constructor
  · show execB imm24 s = _
    rw [execB, State.writePc, htarget]
  · show execBl imm24 s = _
    rw [execBl, State.writePc, htarget, hlink]

/-! ### BX (R364) -/

/-- Another T bit leaves every other bit as it is. -/
theorem withT_rest_getLsbD (p : Psr) (b : Bool) {k : Nat} (hk : k ≠ 5) : (p.withT b).rest.getLsbD k = p.rest.getLsbD k := by
  simp only [Psr.withT, BitVec.getLsbD_append, BitVec.getLsbD_extractLsb']
  by_cases hlow : k < 5
  · simp [hlow]
  · rw [if_neg hlow, if_neg (by omega), show 6 + (k - 5 - 1) = k by omega]
    by_cases hhigh : k < 28
    · rw [decide_eq_true (by omega), Bool.true_and]
    · rw [decide_eq_false (by omega), BitVec.getLsbD_of_ge _ _ (by omega), Bool.false_and]

/-- Settles O55: BX is the hand-over of R408 on bit 0 of the target, else a PC write behind the check of bit 1. -/
theorem branchExchange : Obligations.BranchExchange := by
  intro c m s t
  have hexec : exec (.bx c m) s
      = if t.getLsbD 0 then .next (s.exitThumb t) else guardUnpred [(.bxMisaligned, t.getLsbD 1)] s (.next (s.writePc t)) := rfl
  have harm (h : t.getLsbD 0 = false) := hexec.trans (if_neg (Bool.eq_false_iff.mp h))
  refine ⟨fun h => ?_, fun h hpass => ?_, fun h hbit hp => ?_⟩
  · exact ⟨s.cpsr.withT true, hexec.trans (if_pos h), withT_t _ _, rfl, rfl, rfl, rfl, fun k => withT_rest_getLsbD _ _⟩
  · refine (harm h).trans (guardUnpred_pass _ (hpass.symm.imp_right fun hbit => ?_))
    rw [firstReason_cons, hbit]
    rfl
  · exact (harm h).trans (guardUnpred_cons_hit hp Iff.rfl hbit)

/-! ### SWI and UNDEFINED (R375, R377, R433) -/

section
variable {s : State}

theorem exec_swi_reference (h : s.params.swiEntry = .reference) (c : Cond) (comment : BitVec 24) :
    exec (.swi c comment) s = .next (takeException .svc (s.execAddr + 4) swiVector false s) := by
  show execSwi comment s = _
  unfold execSwi; rw [h]

theorem exec_undefined_reference (h : s.params.undefEntry = .reference) (c : Cond) (bits : BitVec 28) :
    exec (.undefined c bits) s = .next (takeException .und (s.execAddr + 4) undefVector false s) := by
  show execUndefined c bits s = _
  unfold execUndefined; rw [h]

theorem exec_swi_absent (h : s.params.swiEntry = .absent) (c : Cond) (comment : BitVec 24) :
    exec (.swi c comment) s = .fault (.softwareInterrupt comment (s.pc - 8)) := by
  show execSwi comment s = _
  unfold execSwi; rw [h]
  rfl

theorem exec_undefined_absent (h : s.params.undefEntry = .absent) (c : Cond) (bits : BitVec 28) :
    exec (.undefined c bits) s = .fault (.undefinedInstruction (c.bits ++ bits) (s.pc - 8)) := by
  show execUndefined c bits s = _
  unfold execUndefined; rw [h]
  rfl

end

/-- Settles O58: the reference entries are `takeException` with the link A + 4; `entry_fields` gives the CPSR. -/
theorem trapEntries : Obligations.TrapEntries := by
  intro c comment bits s entered link saved linked
  have hentered : ∀ m, entered (s.cpsr.entry m false) m.code := fun m => by
    obtain ⟨hmode, ht, hi, hf, hrest⟩ := entry_fields s.cpsr m false
    exact ⟨hmode, ht, hi, hf, rfl, rfl, rfl, rfl, hrest⟩
  refine ⟨fun h => ⟨_, hentered .svc, ?_⟩, fun h => ⟨_, hentered .und, ?_⟩, fun h => ?_,
    fun h => exec_swi_absent h c comment, fun h => exec_undefined_absent h c bits⟩
  · rw [exec_swi_reference h c]
    exact congrArg _ (takeException_eq .svc link swiVector false s (by decide))
  · rw [exec_undefined_reference h c]
    exact congrArg _ (takeException_eq .und link undefVector false s (by decide))
  · exact ⟨savedSpsr_reference h .svc, linked_reference h 0x13 link, savedSpsr_reference h .und, linked_reference h 0x1B link⟩

/-! ### The block transfers (R369-R371) -/

/-- The cases of R369 that STM and LDM share, in its order; `rest` are the others. -/
def blockChecks (a : Mode4) (rest : List (UnpredReason × Bool)) : List (UnpredReason × Bool) :=
  (.emptyList, a.list == 0) :: (.basePC, a.n == Reg.pc) :: rest

section
variable {a : Mode4} {rest : List (UnpredReason × Bool)} {s : State} {k : Outcome}

theorem guardUnpred_blockChecks_halts (hp : s.params.unpred = .fault) :
    (a.list = 0 → guardUnpred (blockChecks a rest) s k = .fault (.unpredictable .emptyList (s.pc - 8)))
      ∧ (a.list ≠ 0 → a.n = Reg.pc → guardUnpred (blockChecks a rest) s k = .fault (.unpredictable .basePC (s.pc - 8))) :=
  ⟨guardUnpred_cons_hit hp beq_iff_eq,
    fun hlist hn => (guardUnpred_cons_miss beq_iff_eq hlist).trans (guardUnpred_cons_hit hp beq_iff_eq hn)⟩

theorem guardUnpred_blockChecks_pass (hlist : a.list ≠ 0) (hn : a.n ≠ Reg.pc) :
    guardUnpred (blockChecks a rest) s k = guardUnpred rest s k :=
  (guardUnpred_cons_miss beq_iff_eq hlist).trans (guardUnpred_cons_miss beq_iff_eq hn)

end

/-- The base is written back and in the list. -/
theorem loadBaseInList_iff (a : Mode4) :
    (a.w && (listRegs a.list).contains a.n) = true ↔ a.w = true ∧ a.list.getLsbD a.n.val = true := by
  rw [Bool.and_eq_true, List.contains_iff_mem, mem_listRegs]

/-- The base is written back and in the list, but not the lowest of the list (R370). -/
theorem storeBaseNotFirst_iff (a : Mode4) :
    (a.w && (listRegs a.list).contains a.n && (listRegs a.list).head? != some a.n) = true
      ↔ a.w = true ∧ a.list.getLsbD a.n.val = true ∧ rank a.list a.n.val ≠ 0 := by
  rw [Bool.and_eq_true, loadBaseInList_iff, bne_iff_ne, and_assoc]
  exact and_congr_right fun _ => and_congr_right fun hmem => not_congr (head?_listRegs hmem)

/-- Settles O53: each check of `stmChecks` and `ldmChecks` as a proposition, and the first that holds gives the reason. -/
theorem blockTransferUnpredictable : Obligations.BlockTransferUnpredictable := by
  intro c a s hp hasPc inList halts
  have hbankStm : (a.s && a.w) = true ↔ a.s = true ∧ a.w = true := Bool.and_eq_true_iff
  have hbankLdm : (a.s && a.w && !listHasPc a) = true ↔ a.s = true ∧ a.w = true ∧ ¬hasPc := by
    rw [Bool.and_eq_true, Bool.and_eq_true, and_assoc, Bool.not_eq_true', ← Bool.not_eq_true]
    rfl
  have hspsr : (a.s && listHasPc a && !s.hasSpsr) = true ↔ a.s = true ∧ hasPc ∧ s.exc? = none := by
    rw [Bool.and_eq_true, Bool.and_eq_true, and_assoc, hasSpsr_eq, Bool.not_eq_true', Option.isSome_eq_false_iff,
      Option.isNone_iff_eq_none]
    rfl
  refine ⟨?_, fun hlist hn => ?_⟩
  · simp only [List.forall_mem_cons]
    exact ⟨guardUnpred_blockChecks_halts hp, guardUnpred_blockChecks_halts hp, List.forall_mem_nil _⟩
  · have hstm : exec (.stm c a) s = guardUnpred _ s _ := guardUnpred_blockChecks_pass hlist hn
    have hldm : exec (.ldm c a) s = guardUnpred _ s _ := guardUnpred_blockChecks_pass hlist hn
    have hldm₁ (h₁) := hldm.trans (guardUnpred_cons_miss hbankLdm h₁)
    have hldm₂ (h₁ h₂) := (hldm₁ h₁).trans (guardUnpred_cons_miss hspsr h₂)
    exact ⟨fun h => hstm.trans (guardUnpred_cons_hit hp hbankStm h),
      fun h₁ h => (hstm.trans (guardUnpred_cons_miss hbankStm h₁)).trans (guardUnpred_cons_hit hp (storeBaseNotFirst_iff a) h),
      fun h => hldm.trans (guardUnpred_cons_hit hp hbankLdm h),
      fun ⟨hs, hpc, hm⟩ => (hldm₁ fun ⟨_, _, hno⟩ => hno hpc).trans (guardUnpred_cons_hit hp hspsr ⟨hs, hpc, hm⟩),
      fun h₁ h₂ h => (hldm₂ h₁ h₂).trans (guardUnpred_cons_hit hp (loadBaseInList_iff a) h)⟩

end Sys2Proof.Proofs
end

section
/-! A step in User mode (O23): what an instruction that does not trap leaves alone. -/

namespace Sys2Proof.Proofs

open Sys2Proof Sys2Proof.Machine Sys2Proof.Laws

/-! ### User mode of the reference context (R440) -/

/-- User mode of the reference context. -/
structure UserMode (s : State) : Prop where
  ctx : s.params.ctx = .reference
  code : s.cpsr.modeCode = 0x10

section
variable {s : State} (hu : UserMode s)
include hu

theorem UserMode.mode_eq : s.mode = .usr := by
  rw [State.mode, hu.code]
  rfl

theorem UserMode.exc?_eq : s.exc? = none := by
  rw [exc?_reference hu.ctx, hu.mode_eq]
  rfl

/-- Every register number is a register of the User bank. -/
theorem UserMode.cellOf_eq (i : Fin 15) : s.cellOf i = .usr i := by
  rw [cellOf_reference hu.ctx, hu.mode_eq]
  rfl

theorem UserMode.cell?_ne {c : RegCell} (hc : ∀ k, c ≠ .usr k) (r : Reg) : s.cell? r ≠ some c := by
  unfold State.cell?
  split
  · rw [hu.cellOf_eq]
    exact fun e => hc _ (Option.some.inj e).symm
  · exact nofun

theorem UserMode.userCell?_ne {c : RegCell} (hc : ∀ k, c ≠ .usr k) (r : Reg) : s.userCell? r ≠ some c := by
  unfold State.userCell?
  split
  · rw [userCellOf_reference hu.ctx]
    exact fun e => hc _ (Option.some.inj e).symm
  · exact nofun

/-- MSR cannot write CPSR[7:0] (R367). -/
theorem UserMode.cpsrBits_low {k : Nat} (hk : k < 8) : s.cpsrBits.getLsbD k = false := by
  rw [cpsrBits_getLsbD s (by omega), hu.ctx]
  simp [hu.mode_eq, show ¬28 ≤ k by omega, show ¬8 ≤ k by omega]

end

/-! ### The instructions that do not trap -/

/-- The mode, I and F are the same. -/
structure KeepsControl (p q : Psr) : Prop where
  mode : q.modeCode = p.modeCode
  i : q.i = p.i
  f : q.f = p.f

theorem keepsControl_of_rest {p q : Psr} (h : q.rest = p.rest) : KeepsControl p q :=
  ⟨congrArg (BitVec.extractLsb' 0 5) h, congrArg (BitVec.getLsbD · 7) h, congrArg (BitVec.getLsbD · 6) h⟩

/-- CPSR[7:0] but T hold the mode, I and F (R37). -/
theorem keepsControl_of_bits {p q : Psr} (h : ∀ k, k < 8 → k ≠ 5 → q.rest.getLsbD k = p.rest.getLsbD k) : KeepsControl p q where
  mode := BitVec.eq_of_getLsbD_eq fun k hk => by
    rw [Psr.modeCode, Psr.modeCode, BitVec.getLsbD_extractLsb', BitVec.getLsbD_extractLsb', h _ (by omega) (by omega)]
  i := h 7 (by decide) (by decide)
  f := h 6 (by decide) (by decide)

theorem entryCells_of_not_traps {i : Instr} (h : traps i = false) (s : State) : entryCells i s = [] := by
  cases i
  case swi | undefined => cases h
  all_goals rfl

/-- An exception return in a mode with no SPSR restores nothing (R233). -/
theorem dpFlags_rest {op n d o} {s t : State} (hm : s.exc? = none) (h : dpFlags op n d o s = .next t) : t.cpsr.rest = s.cpsr.rest := by
  obtain ⟨-, rfl⟩ | ⟨-, rfl⟩ := dpFlags_next h
  · rw [returnFromException_none hm, writePc_cpsr]
  · rw [setReg_cpsr]
    rfl

theorem loadOne_cpsr_of_none {s : State} (hm : s.exc? = none) (a : Mode4) (iv : Reg × Word) : (loadOne a s iv).cpsr = s.cpsr := by
  by_cases hpc : iv.1 = Reg.pc
  · obtain ⟨r, v⟩ := iv
    subst hpc
    rw [loadOne_pc_plain (.inr hm), writePc_cpsr]
  · exact loadOne_cpsr a s iv (.inr hpc)

theorem foldl_loadOne_cpsr_of_none (a : Mode4) (l : List (Reg × Word)) :
    ∀ s : State, s.exc? = none → (l.foldl (loadOne a) s).cpsr = s.cpsr := by
  induction l with
  | nil => exact fun _ _ => rfl
  | cons iv l ih =>
    intro s hm
    have hcpsr := loadOne_cpsr_of_none hm a iv
    have hnext : (loadOne a s iv).exc? = none := (exc?_congr (loadOne_params a s iv) (congrArg _ hcpsr)).trans hm
    exact (ih _ hnext).trans hcpsr

/-- LDM in a mode with no SPSR restores nothing either (R371). -/
theorem execLdm_cpsr_of_none {a : Mode4} {s t : State} (hm : s.exc? = none) (h : execLdm a s = .next t) : t.cpsr = s.cpsr := by
  rw [execLdm_next h, foldl_loadOne_cpsr_of_none]
  · simp
  · exact (exc?_congr (by simp) (by simp)).trans hm

theorem execBx_control {m : Reg} {s t : State} (h : execBx m s = .next t) : KeepsControl s.cpsr t.cpsr := by
  obtain ⟨-, rfl⟩ | ⟨-, rfl⟩ := execBx_next h
  · exact keepsControl_of_bits fun k _ => withT_rest_getLsbD _ _
  · exact keepsControl_of_rest rfl

section
variable {i : Instr} {s t : State} (hu : UserMode s)
include hu

theorem execMsrCpsr_control {mask : BitVec 4} {o : PsrOperand} (h : execMsrCpsr mask o s = .next t) : KeepsControl s.cpsr t.cpsr := by
  cases guardUnpred_next h
  refine keepsControl_of_bits fun k hk _ => ?_
  have hbit := maskedWrite_getLsbD s.cpsr.toWord (resolvePsrOperand o s) s.cpsrBits mask (show k < 32 by omega)
  rw [hu.cpsrBits_low hk, Bool.and_false, if_neg (by decide), toWord_getLsbD, toWord_getLsbD, if_pos (by omega),
    if_pos (by omega)] at hbit
  exact hbit

variable (htraps : traps i = false)
include htraps

theorem notMem_writtenCells_of_banked {c : RegCell} (hc : ∀ k, c ≠ .usr k) : c ∉ writtenCells i s := by
  simp only [writtenCells, entryCells_of_not_traps htraps, List.mem_append, List.mem_filterMap, List.not_mem_nil, or_false]
  rintro (⟨r, -, hr⟩ | ⟨r, -, hr⟩)
  · exact hu.cell?_ne hc r hr
  · exact hu.userCell?_ne hc r hr

variable (h : exec i s = .next t)
include h

theorem exec_control : KeepsControl s.cpsr t.cpsr := by
  cases i
  case swi | undefined => cases htraps
  case ands | eors | subs | rsbs | adds | adcs | sbcs | rscs | orrs | movs | bics | mvns =>
    exact keepsControl_of_rest (dpFlags_rest hu.exc?_eq h)
  case ldm => exact keepsControl_of_rest (congrArg _ (execLdm_cpsr_of_none hu.exc?_eq h))
  case bx => exact execBx_control h
  case msrCpsr => exact execMsrCpsr_control hu h
  all_goals exact keepsControl_of_rest ((exec_frame _ s t h).rest rfl)

theorem exec_spsr : t.spsr = s.spsr := by
  cases i
  case swi | undefined => cases htraps
  case msrSpsr =>
    cases guardUnpred_next h
    rw [writeSpsr_none hu.exc?_eq]
  all_goals exact (exec_frame _ s t h).spsr rfl

end

/-! ### The step -/

/-- From `s` to `t`, nothing has changed that User mode may not change: the mode, I and F, the SPSRs, the banked registers of the other
modes (R441). -/
structure Isolated (s t : State) : Prop where
  control : KeepsControl s.cpsr t.cpsr
  spsr : t.spsr = s.spsr
  banked : ∀ c : RegCell, (∀ k, c ≠ .usr k) → t.regs.get c = s.regs.get c

theorem isolated_of_eq {s t : State} (hcpsr : t.cpsr = s.cpsr) (hspsr : t.spsr = s.spsr) (hregs : t.regs = s.regs) : Isolated s t :=
  ⟨keepsControl_of_rest (congrArg _ hcpsr), hspsr, fun c _ => congrArg (·.get c) hregs⟩

/-- The advance after a handler writes pc alone (R405). -/
theorem Isolated.finish {s t : State} (h : Isolated s t) : Isolated s (finish t) := by
  obtain ⟨hcontrol, hspsr, hbanked⟩ := h
  constructor
  · rwa [finish_cpsr]
  · rwa [finish_spsr]
  · rwa [finish_regs]

theorem exec_isolated {i : Instr} {s t : State} (hu : UserMode s) (htraps : traps i = false) (h : exec i s = .next t) : Isolated s t :=
  ⟨exec_control hu htraps h, exec_spsr hu htraps h,
    fun _ hc => (exec_frame i s t h).regs _ (notMem_writtenCells_of_banked hu htraps hc)⟩

theorem eq_trap_of_traps {i : Instr} (h : traps i = true) :
    (∃ c comment, i = .swi c comment) ∨ ∃ c bits, i = .undefined c bits := by
  cases i
  case swi c comment => exact .inl ⟨c, comment, rfl⟩
  case undefined c bits => exact .inr ⟨c, bits, rfl⟩
  all_goals cases h

/-- After a reference entry the step leaves the mode entered, and pc at the vector. -/
theorem finish_takeException {m : ExcMode} {link vector : Word} {b : Bool} {s : State} (hv : vector &&& 0xFFFFFFFC = vector) :
    (finish (takeException m link vector b s)).cpsr.modeCode = m.code ∧ (finish (takeException m link vector b s)).pc = vector := by
  rw [finish_written (by rw [takeException_counter]; decide), takeException_pc]
  exact ⟨takeException_modeCode, hv⟩

/-- What a step in User mode that goes on does: it is isolated, or its instruction trapped. -/
theorem step_user {s t : State} (hu : UserMode s) (h : step s = .next t) :
    Isolated s t
      ∨ ∃ u, exec (decodeWord s.decodeSlot) (shift s) = .next u ∧ t = finish u ∧ traps (decodeWord s.decodeSlot) = true := by
  obtain ⟨-, ⟨-, rfl⟩ | ⟨-, -, rfl⟩ | ⟨-, -, u, hexec, rfl⟩⟩ := step_next h
  · exact .inl (isolated_of_eq rfl rfl rfl)
  · exact .inl (isolated_of_eq rfl rfl rfl)
  · cases htraps : traps (decodeWord s.decodeSlot)
    · obtain ⟨hcontrol, hspsr, hbanked⟩ : Isolated (shift s) u := exec_isolated ⟨hu.ctx, hu.code⟩ htraps hexec
      exact .inl (Isolated.finish ⟨hcontrol, hspsr, hbanked⟩)
    · exact .inr ⟨u, hexec, rfl, rfl⟩

/-- Settles O23: in User mode there is no SPSR to restore CPSR from, MSR cannot write CPSR[7:0], BX writes T alone, and every register
number is one of the User bank; so only a trap is not `Isolated`. -/
theorem userModeIsLeftByTrapsOnly : Obligations.UserModeIsLeftByTrapsOnly := by
  intro s t hctx hcode h
  obtain ⟨⟨hmode, hi, hf⟩, hspsr, hbanked⟩ | ⟨u, hexec, rfl, htraps⟩ := step_user ⟨hctx, hcode⟩ h
  · exact .inl ⟨hmode.trans hcode, hi, hf, hspsr, hbanked⟩
  · obtain ⟨c, comment, hi⟩ | ⟨c, bits, hi⟩ := eq_trap_of_traps htraps
    · refine .inr (.inl ⟨c, comment, hi, fun hentry => ?_⟩)
      rw [hi, exec_swi_reference (s := shift s) hentry] at hexec
      cases hexec
      exact finish_takeException (by decide)
    · refine .inr (.inr ⟨c, bits, hi, fun hentry => ?_⟩)
      rw [hi, exec_undefined_reference (s := shift s) hentry] at hexec
      cases hexec
      exact finish_takeException (by decide)

end Sys2Proof.Proofs
end

section
/-! The pipeline engine: the step of an instruction that passes (O7), the flushing step (O9) and the two of them after a PC write (O10), the
transitions of the counter (O12), and the steps refused (O15). -/

namespace Sys2Proof.Proofs

open Sys2Proof Sys2Proof.Machine Sys2Proof.Laws

/-! ### The acting step (R402, R411) -/

/-- Where the condition passes, the handler runs, and phase 3 follows it (R405, R406). -/
theorem act_of_passing {i : Instr} {s : State} (h : s.passes i.cond = true) : act i s = afterHandler (exec i s) := by
  unfold act
  rw [if_pos h]
  cases exec i s <;> rfl

theorem step_of_passing {s : State} (ht : s.thumb = false) (hc : s.counter = 0)
    (hpass : s.passes (decodeWord s.decodeSlot).cond = true) :
    step s = afterHandler (exec (decodeWord s.decodeSlot) (shift s)) := by
  have hshifted : (shift s).passes (decodeWord s.decodeSlot).cond = true := hpass
  rw [step_arm ht, if_pos hc, act_of_passing hshifted]

/-- Settles O7: the step is the act on the shifted window, and the shift leaves the flags as they are. -/
theorem stepRunsTheDecodedInstruction : Obligations.StepRunsTheDecodedInstruction := by
  rintro s i ht hc rfl hpass
  exact step_of_passing ht hc hpass

/-! ### The flushing step (R403, R404) -/

/-- The state after a flushing step: the three phases in order. -/
def flushed (s : State) : State := advance (tick (shift s))

theorem flushed_counter (s : State) : (flushed s).counter = s.counter >>> 1 := rfl

theorem step_of_flushing {s : State} (ht : s.thumb = false) (hc : s.counter ≠ 0) : step s = .next (flushed s) := by
  rw [step_arm ht, if_neg hc]
  rfl

theorem stepKind_flushed {s : State} (hc : s.counter ≠ 0) : stepKind s = .flushed := by
  rw [stepKind, if_neg hc]

/-- Settles O9: no handler runs while the counter is not 0. -/
theorem flushingStepHalvesTheCounter : Obligations.FlushingStepHalvesTheCounter :=
  fun _ ht hc => ⟨stepKind_flushed hc, step_of_flushing ht hc⟩

theorem extract_low_byte {v : Nat} (hi : BitVec v) (lo : Byte) : BitVec.extractLsb' 0 8 (hi ++ lo) = lo := by
  rw [extract_append_lo _ _ _ _ le_rfl (by decide), extract_all]

theorem extract_above_byte {v : Nat} (hi : BitVec v) (lo : Byte) (k : Nat) :
    BitVec.extractLsb' (k + 8) 8 (hi ++ lo) = BitVec.extractLsb' k 8 hi := by
  rw [extract_append_hi _ _ _ _ (by omega), Nat.add_sub_cancel]

/-- The bytes of a word put together from bytes (R64). -/
theorem wordBytes_append (b0 b1 b2 b3 : Byte) : wordBytes (b3 ++ b2 ++ b1 ++ b0) = [b0, b1, b2, b3] := by
  have h0 : BitVec.extractLsb' 0 8 (b3 ++ b2 ++ b1 ++ b0) = b0 := extract_low_byte _ _
  have h1 : BitVec.extractLsb' 8 8 (b3 ++ b2 ++ b1 ++ b0) = b1 := (extract_above_byte _ _ 0).trans (extract_low_byte _ _)
  have h2 : BitVec.extractLsb' 16 8 (b3 ++ b2 ++ b1 ++ b0) = b2 := by
    rw [extract_above_byte _ _ 8, extract_above_byte _ _ 0]
    exact extract_low_byte _ _
  have h3 : BitVec.extractLsb' 24 8 (b3 ++ b2 ++ b1 ++ b0) = b3 := by
    rw [extract_above_byte _ _ 16, extract_above_byte _ _ 8, extract_above_byte _ _ 0]
    exact extract_all b3
  exact congrArg₂ _ h0 (congrArg₂ _ h1 (congrArg₂ _ h2 (congrArg ([·]) h3)))

theorem wordBytes_read32 (m : Memory) (a : Word) :
    wordBytes (m.read32 a) = [m.read8 a, m.read8 (a + 1), m.read8 (a + 2), m.read8 (a + 3)] :=
  wordBytes_append _ _ _ _

theorem decode_wordBytes (w : Word) : decode (wordBytes w) = .ok (decodeWord w, []) := by
  simpa using decode_wordBytes_append w []

/-- Two flushing steps from counter 3 move the window by two words and pc by 8, and leave the counter 0 (R404). -/
theorem flushed_flushed {s : State} (hc : s.counter = 3) :
    flushed (flushed s) = { (s.ask (.read .word s.pc)).ask (.read .word (s.pc + 4)) with
      executeSlot := s.fetchSlot, decodeSlot := s.load32 s.pc, fetchSlot := (flushed s).load32 (s.pc + 4), pc := s.pc + 8,
      counter := 0 } := by
  have hpc : s.pc + 4 + 4 = s.pc + 8 := BitVec.add_assoc _ _ _
  have hcounter : s.counter >>> 1 >>> 1 = 0 := by rw [hc]; rfl
  rw [← hpc, ← hcounter]
  rfl

/-- Settles O10: two flushing steps bring the word fetched from the target into the decode slot, and the third step runs it. -/
theorem targetRunsAfterTwoFlushes : Obligations.TargetRunsAfterTwoFlushes := by
  intro s i ht hc hi
  have hword : decodeWord (s.load32 s.pc) = i := by
    rw [decode_wordBytes] at hi
    cases hi
    rfl
  have hflush : s.counter ≠ 0 := by rw [hc]; decide
  have hflush' : (flushed s).counter ≠ 0 := by rw [flushed_counter, hc]; decide
  have hzero : (flushed (flushed s)).counter = 0 := by rw [flushed_flushed hc]
  refine ⟨fun hm => ?_, flushed s, flushed (flushed s), step_of_flushing ht hflush, step_of_flushing ht hflush', flushed_flushed hc,
    hword, fun hpass => ⟨shift (flushed (flushed s)), ?_, ?_, rfl, rfl, rfl, rfl, rfl, rfl⟩⟩
  · rw [load32_flat hm, wordBytes_read32]
  · subst hword
    exact step_of_passing ht hzero hpass
  · show s.pc + 4 + 4 - 8 = s.pc
    bv_omega

/-! ### The counter (R412) -/

/-- Phase 3 after a handler that ran at counter 0: the handler wrote pc, which it keeps, or pc advances (R405, R406). -/
theorem finish_transition {s u : State} (hk : Kept s u) (hc : s.counter = 0) :
    ((finish u).counter = 0 ∧ (finish u).pc = s.pc + 4) ∨ ((finish u).counter = 3 ∧ (finish u).pcAligned) := by
  rcases hk.pc with ⟨hpc, hcounter⟩ | ⟨hcounter, haligned⟩
  · have hzero : u.counter = 0 := hcounter.trans hc
    exact .inl ⟨(finish_counter u).trans hzero, by rw [finish_advanced hzero, hpc]⟩
  · have hwritten : u.counter ≠ 0 := by rw [hcounter]; decide
    rw [finish_written hwritten]
    exact .inr ⟨hcounter, haligned⟩

/-- What a step that starts with counter 0 does to the counter and pc: a skip advances, and `exec_kept` says what a handler does. -/
theorem step_transition {s t : State} (h : step s = .next t) (hc : s.counter = 0) :
    (t.counter = 0 ∧ t.pc = s.pc + 4) ∨ (t.counter = 3 ∧ t.pcAligned) := by
  obtain ⟨-, ⟨hflush, -⟩ | ⟨-, -, rfl⟩ | ⟨-, -, u, hu, rfl⟩⟩ := step_next h
  · exact absurd hc hflush
  · exact .inl ⟨hc, rfl⟩
  · exact finish_transition (s := shift s) (exec_kept _ _ _ hu) hc

theorem step_halves {s t : State} (h : step s = .next t) (hc : s.counter ≠ 0) : t.counter = s.counter >>> 1 ∧ t.pc = s.pc + 4 := by
  obtain ⟨ht, -⟩ := step_next h
  rw [step_of_flushing ht hc] at h
  cases h
  exact ⟨rfl, rfl⟩

/-- Settles O12: a flushing step halves the counter, and `step_transition` is the normal state. -/
theorem counterTransitions : Obligations.CounterTransitions := by
  intro s t h
  refine ⟨fun hc => ?_, fun hc => ?_, step_transition h⟩
  · have hflush := step_halves h (by rw [hc]; decide)
    rwa [hc] at hflush
  · have hflush := step_halves h (by rw [hc]; decide)
    rwa [hc] at hflush

/-! ### Refusals (R416) -/

/-- No refusal is among the answers of an instruction. -/
theorem exec_ne_refused (i : Instr) (s : State) (r : Refusal) : exec i s ≠ .refused r := fun h => nomatch h ▸ exec_answers i s

theorem afterHandler_ne_refused {o : Outcome} {r : Refusal} (h : o ≠ .refused r) : afterHandler o ≠ .refused r := by
  cases o with
  | next | fault => nofun
  | refused => exact h

theorem act_ne_refused (i : Instr) (s : State) (r : Refusal) : act i s ≠ .refused r := by
  cases hpass : s.passes i.cond
  · rw [act_of_failing hpass]
    nofun
  · rw [act_of_passing hpass]
    exact afterHandler_ne_refused (exec_ne_refused i s r)

theorem step_thumb {s : State} (ht : s.thumb = true) : step s = .refused .thumbState := if_pos ht

/-- In ARM state a step is an act or a flushing step. -/
theorem step_ne_refused {s : State} (ht : s.thumb = false) (r : Refusal) : step s ≠ .refused r := by
  rw [step_arm ht]
  split
  · exact act_ne_refused _ _ r
  · nofun

/-- Settles O15: T = 1 is refused before the shift, and neither an act nor a flushing step refuses. -/
theorem onlyThumbStateIsRefused : Obligations.OnlyThumbStateIsRefused := by
  intro s r
  refine ⟨⟨fun h => ?_, ?_⟩, fun i => exec_ne_refused i s r⟩
  · cases ht : s.thumb
    · exact absurd h (step_ne_refused ht r)
    · rw [step_thumb ht] at h
      cases h
      exact ⟨rfl, rfl⟩
  · rintro ⟨ht, rfl⟩
    exact step_thumb ht

end Sys2Proof.Proofs
end

section
/-! The modes and the banks of R440: the physical register of each number in each mode, and the registers and the SPSR that a state of the
reference context reads (O25). -/

namespace Sys2Proof.Proofs

open Sys2Proof Sys2Proof.Machine Sys2Proof.Laws

/-! ### The banks of a mode (R440) -/

/-- Below r13, a mode that banks two registers has the User registers. -/
theorem bankedPair_of_lt (bank : Fin 2 → RegCell) {i : Fin 15} (h : i.val < 13) : bankedPair bank i = .usr i := by
  rw [bankedPair, if_neg (by omega), if_neg (by omega)]

/-- r13 and r14 are the two registers of the bank. -/
theorem bankedPair_add (bank : Fin 2 → RegCell) (k : Fin 2) : bankedPair bank ⟨k.val + 13, by omega⟩ = bank k := by
  match k with
  | 0 | 1 => rfl

/-- Below r8, FIQ has the User registers. -/
theorem home_fiq_of_lt {i : Fin 15} (h : i.val < 8) : home .fiq i = .usr i := dif_neg (by omega)

/-- r8 to r14 are the seven registers of FIQ. -/
theorem home_fiq_add (k : Fin 7) : home .fiq ⟨k.val + 8, by omega⟩ = .fiq k := by
  rw [home, dif_pos (Nat.le_add_left 8 k.val)]
  rfl

/-! ### The registers of a state of the reference context -/

theorem userReg_of_lt (s : State) (i : Reg) (h : i.val < 15) : s.userReg i = s.regs.get (s.userCellOf ⟨i.val, h⟩) := dif_pos h

section
variable {s : State} (hctx : s.params.ctx = .reference) {i : Reg} (h : i.val < 15)
include hctx

theorem reg_reference : s.reg i = s.regs.get (home s.mode ⟨i.val, h⟩) := by
  rw [reg_of_lt s i h, cellOf_reference hctx]

theorem userReg_reference : s.userReg i = s.regs.get (.usr ⟨i.val, h⟩) := by
  rw [userReg_of_lt s i h, userCellOf_reference hctx]

end

/-- Settles O25: the codes, the modes with an SPSR and the SPSRs are those of the definitions' tables; the banks are by the range of the
register number; and the reads of a state are the reference context's laws. -/
theorem modesAndBanks : Obligations.ModesAndBanks := by
  refine ⟨rfl, rfl, rfl, rfl, rfl, rfl, rfl, rfl, rfl, rfl, rfl, rfl, rfl, rfl, ?spsrs, ?user, ?fiqLow, home_fiq_add, ?pairLow, ?pair,
    ?reads⟩
  case spsrs => exact fun p => ⟨rfl, rfl, rfl, rfl, rfl⟩
  case user => exact fun i => ⟨rfl, rfl⟩
  case fiqLow => exact fun i h => home_fiq_of_lt h
  case pairLow =>
    exact fun i h => ⟨bankedPair_of_lt _ h, bankedPair_of_lt _ h, bankedPair_of_lt _ h, bankedPair_of_lt _ h⟩
  case pair => exact fun k => ⟨bankedPair_add _ k, bankedPair_add _ k, bankedPair_add _ k, bankedPair_add _ k⟩
  case reads =>
    exact fun s hctx => ⟨exc?_reference hctx, fun i h => ⟨reg_reference hctx h, userReg_reference hctx h⟩⟩

end Sys2Proof.Proofs
end
